-- ==== Sys2Proof/Word.lean ====
section
/-! DEFINITION. The word types of TWOSTOP-CORE, one name per width the spec gives (00_scope.md R5, R6).
Every value of the spec is unsigned (R6), so each is a bit vector read by `toNat`. -/

namespace Sys2Proof

/-- A host transaction word `T`, 41 bits (30_encoding.md R51). -/
abbrev TxnWord := BitVec 41

/-- The 3-bit micro-operation selector, the phase register `K` (R20, R57). -/
abbrev Selector := BitVec 3

/-- The 32-bit data of a host transaction, `WDATA` or `RDATA` (R51, R121). -/
abbrev HostWord := BitVec 32

/-- A byte offset in the register space (R30, R51). -/
abbrev Offset := BitVec 8

/-- An image dimension: `DIMW` bits, a parameter with default 16 (R5, R13, R14). DESIGN CHOICE (log entry 10): the output
dimensions and coordinates have this width too; the spec gives them plain 16 bits (R10, R17 to R19), the same at the
default, and ties `DIMW` to WIDTH and HEIGHT only. -/
abbrev Dim (dimw : Nat := 16) := BitVec dimw

/-- One accumulator: `ACCW` bits, a parameter with default 32 (R5, R16). -/
abbrev Acc (accw : Nat := 32) := BitVec accw

/-- A pixel index of `SRC` or `DST`: `AW` bits, which follow from `DIMW` as `2 * DIMW`, by default 32 (R5, R30). -/
abbrev Index (aw : Nat := 32) := BitVec aw

/-- A source pixel word, three 16-bit samples (R23, R33). -/
abbrev SrcPixel := BitVec 48

/-- A destination pixel word, three 8-bit samples (R24, R34). -/
abbrev DstPixel := BitVec 24

/-- One source sample, 0 to 65535 (R5). -/
abbrev Sample16 := BitVec 16

/-- One output sample, 0 to 255 (R5). -/
abbrev Sample8 := BitVec 8

end Sys2Proof
end

