-- ==== Sys2Proof/Config.lean ====
section
/-! DEFINITION. What is fixed for one TWOSTOP-CORE, and the values the spec leaves open (00_scope.md R5,
92_eei_decisions.md, 93_implementation_defined.md). An `opaque` constant has no body: nothing can be proved of its
value, so a claim is true whatever it is. -/

namespace Sys2Proof.Config

/-- The only channel count START accepts (R15, R142). -/
def acceptedChannels : BitVec 4 := 3

/-- The only bit depth START accepts (R15, R143). -/
def acceptedDepth : BitVec 5 := 16

/-- FREE VALUE: what `SRC` holds at an index that nothing has written since power-up number `n`. "their content after
power-up is unspecified" (R29); "each such `SrcRead` returns an unspecified word" (R164). A function of the location,
since a read is idempotent (R33). Log entry 3. -/
opaque srcPowerUp {aw : Nat} (n : Nat) (a : Index aw) : SrcPixel

/-- FREE VALUE: what `DST` holds at an index that nothing has written since power-up number `n` (R24, R29, V1). Only
the host can read it. Log entry 3. -/
opaque dstPowerUp {aw : Nat} (n : Nat) (a : Index aw) : DstPixel

end Sys2Proof.Config
end

