-- ==== Sys2Proof/Machine/State.lean ====
section
/-! DEFINITION. The state of TWOSTOP-CORE: the tuple of 10_state.md R10, the two pixel memories (R23, R24), and, apart
from them, the outside's side of the interface, which a step of one machine needs (log entries 1, 2, 3). -/

namespace Sys2Proof.Machine

open Sys2Proof

/-- The sequencer state STATE, a register of four values (R11). -/
inductive RunState where
  /-- 0: no run since reset. -/
  | idle
  /-- 1: a run is in progress. -/
  | busy
  /-- 2: the last run finished. -/
  | done
  /-- 3: the last START was refused. -/
  | error
  deriving DecidableEq, Repr

/-- The error code ERR (R12). Codes 4 to 15 are never written and have no name (V8). -/
inductive ErrCode where
  /-- 0. -/
  | none
  /-- 1: reserved, written by no rule (R141). -/
  | invalidDimensions
  /-- 2 (R142). -/
  | channelCountMismatch
  /-- 3 (R143). -/
  | unsupportedBitDepth
  deriving DecidableEq, Repr

/-- One value for each channel: R (index 0), G (1), B (2) (R5, R90). -/
structure Lanes (α : Type) where
  r : α
  g : α
  b : α
  deriving DecidableEq, Repr

/-- The registers, exactly the tuple of R10, for the widths `ACCW` and `DIMW` (R5). DESIGN CHOICE (log entry 10): at a
`DIMW` other than 16 not only WIDTH and HEIGHT but OUT_WIDTH, OUT_HEIGHT, Y and X too have `DIMW` bits, so that a half
and a coordinate fit; R10 gives those four plain 16 bits. -/
structure Regs (accw : Nat := 32) (dimw : Nat := 16) where
  /-- STATE (R11). -/
  state : RunState
  /-- ERR (R12). -/
  err : ErrCode
  /-- WIDTH (R13). -/
  width : Dim dimw
  /-- HEIGHT (R14). -/
  height : Dim dimw
  /-- FORMAT.CHANNELS (R15). -/
  channels : BitVec 4
  /-- FORMAT.DEPTH (R15). -/
  depth : BitVec 5
  /-- OUT_WIDTH (R17); `DIMW` bits at another `DIMW` is the model's choice (log entry 10). -/
  outWidth : Dim dimw
  /-- OUT_HEIGHT (R18); `DIMW` bits as OUT_WIDTH (log entry 10). -/
  outHeight : Dim dimw
  /-- Y, the output row (R19); `DIMW` bits as OUT_WIDTH (log entry 10). -/
  y : Dim dimw
  /-- X, the output column (R19); `DIMW` bits as OUT_WIDTH (log entry 10). -/
  x : Dim dimw
  /-- K, the phase inside the block (R20). -/
  k : Selector
  /-- ACC[0..2] (R16). -/
  acc : Lanes (Acc accw)
  deriving DecidableEq, Repr

/-- A pixel memory with `n`-bit locations: the locations something has written, by rising index. A location that is not
listed has no stored value (R29: "holding no known value"). Pixels, not bytes: "the unit of addressing in both is the
pixel, not the byte" (R30, R35). Log entry 4. -/
abbrev Memory (n : Nat) := List (Nat × BitVec n)

/-- What the outside does next (R8, R41, R120, R160), with pixel indices of `aw` bits. -/
inductive HostAction (aw : Nat := 32) where
  /-- The host performs a register transaction (R51, R120). -/
  | txn (t : TxnWord)
  /-- The host writes a pixel of SRC (R23, R41). -/
  | writeSrc (a : Index aw) (p : SrcPixel)
  /-- The host reads a pixel of SRC (R41). -/
  | readSrc (a : Index aw)
  /-- The host writes a pixel of DST (R41, R167). -/
  | writeDst (a : Index aw) (v : DstPixel)
  /-- The host reads a pixel of DST (R24, R41). -/
  | readDst (a : Index aw)
  /-- The reset input (R160). -/
  | reset
  /-- Nothing from outside: the core has one step, enabled when BUSY (R8, R100). -/
  | coreTurn
  deriving DecidableEq, Repr

/-- What the host is given back (R41, R51). -/
inductive Reply where
  /-- RDATA of a register read. -/
  | rdata (v : HostWord)
  /-- The pixel of a read of SRC. -/
  | srcPixel (p : SrcPixel)
  /-- The pixel of a read of DST. -/
  | dstPixel (v : DstPixel)
  deriving DecidableEq, Repr

/-- The machine. `regs`, `src` and `dst` are the spec's state (R10, R23, R24); the last three fields are the model's
own (log entries 1, 2, 3). The widths are the parameters of R5 with their defaults: `State` is the machine of the
default widths, and `State ACCW DIMW (2 * DIMW)` that of others (Parametric.lean). -/
structure State (accw : Nat := 32) (dimw : Nat := 16) (aw : Nat := 32) where
  /-- The registers (R10). -/
  regs : Regs accw dimw
  /-- SRC, the source memory (R23). -/
  src : Memory 48
  /-- DST, the destination memory (R24). -/
  dst : Memory 24
  /-- The model's own: what the outside does next, first first; when empty, the core has every turn. -/
  inputs : List (HostAction aw)
  /-- The model's own: what the host has been given, newest first. -/
  replies : List Reply
  /-- The model's own: which power-up this is, the argument of the power-up contents of SRC and DST. -/
  powerUp : Nat
  deriving DecidableEq, Repr

/-- Why the machine stops with a fault. -/
inductive Fault where
  /-- Raised by the micro-operations of the reserved selectors: a core step with `K` above 4, which the spec gives no
  operation and calls "a fault of the model" (R59, V9). Safe: no rule of the spec writes such a `K` (R20, R108). -/
  | reservedSelector (k : Selector)
  deriving DecidableEq, Repr

/-- Why an operation is refused. -/
inductive Refusal where
  /-- Raised by an arm of `exec` whose operation has no meaning yet. Safe: nothing can be proved of a run through it. -/
  | notModelled (mnemonic : String)
  deriving DecidableEq, Repr

/-- What a step or an operation answers. -/
abbrev Result (accw dimw aw : Nat) := Host.Outcome (State accw dimw aw) Fault Refusal

/-- The registers after reset (R10, last column; R29). -/
def Regs.reset (accw : Nat := 32) (dimw : Nat := 16) : Regs accw dimw where
  state := .idle
  err := .none
  width := 0
  height := 0
  channels := 3
  depth := 16
  outWidth := 0
  outHeight := 0
  y := 0
  x := 0
  k := 0
  acc := ⟨0, 0, 0⟩

/-- The machine of any widths right after power-up and reset: the registers of R29, nothing written in SRC or DST
("their content after power-up is unspecified"), and nothing from outside yet (log entry 5). -/
def State.powerOn (accw : Nat := 32) (dimw : Nat := 16) (aw : Nat := 32) : State accw dimw aw where
  regs := Regs.reset accw dimw
  src := []
  dst := []
  inputs := []
  replies := []
  powerUp := 0

/-- The machine of the default widths right after power-up and reset. -/
def State.reset : State := State.powerOn

end Sys2Proof.Machine
end

