-- ==== Sys2Proof/Machine/Flags.lean ====
section
/-! DEFINITION. The core has no condition codes and no operation sets a flag (10_state.md R27). Its only status is
STATE and ERR: here are their code numbers, the STATUS view (R22), and the check of the declared format that decides
ERR at START (60_exceptions.md R142, R143, R146). -/

namespace Sys2Proof.Machine

open Sys2Proof

variable {accw dimw : Nat}

/-- The value of STATE as the two bits of the register (R11). -/
def RunState.code : RunState → BitVec 2
  | .idle => 0
  | .busy => 1
  | .done => 2
  | .error => 3

/-- The value of ERR as the four bits of the register (R12). -/
def ErrCode.code : ErrCode → BitVec 4
  | .none => 0
  | .invalidDimensions => 1
  | .channelCountMismatch => 2
  | .unsupportedBitDepth => 3

/-- The STATUS view: `zext_32(ERR) * 16 + zext_32(STATE)` (R22, R56, R123). -/
def Regs.statusWord (r : Regs accw dimw) : HostWord :=
  r.err.code.setWidth 32 * 16 + r.state.code.setWidth 32

/-- The error START raises for the declared format, if any: the channel count is checked first, then the bit depth
(R142, R143, R146). -/
def Regs.formatError (r : Regs accw dimw) : Option ErrCode :=
  if r.channels ≠ Config.acceptedChannels then some .channelCountMismatch
  else if r.depth ≠ Config.acceptedDepth then some .unsupportedBitDepth
  else none

end Sys2Proof.Machine
end

