-- ==== Sys2Proof/Machine/Operands.lean ====
section
/-! DEFINITION. Operand and result forms: the samples of a pixel word (20_memory.md R33, R34), the datapath's lane
functions (41_datapath_operations.md R90 to R94), the effective addresses (42_sequencer.md R102), and the fields of
the host's data words (30_encoding.md R55, R56). -/

namespace Sys2Proof.Machine

open Sys2Proof

variable {accw dimw : Nat}

/-! ### Lanes and pixel words -/

/-- The value of channel `c` (R90: 0 = R, 1 = G, 2 = B). -/
def Lanes.get {α : Type} (l : Lanes α) : Fin 3 → α
  | 0 => l.r
  | 1 => l.g
  | 2 => l.b

/-- One value computed for each channel. -/
def lanesOf {α : Type} (f : Fin 3 → α) : Lanes α := ⟨f 0, f 1, f 2⟩

/-- `chan16(p, c) = p[16c+15:16c]` (R7, R33). -/
def chan16 (p : SrcPixel) (c : Fin 3) : Sample16 := p.extractLsb' (16 * c.val) 16

/-- Sample `c` of a destination pixel, `v[8c+7:8c]` (R34). -/
def chan8 (v : DstPixel) (c : Fin 3) : Sample8 := v.extractLsb' (8 * c.val) 8

/-- `pack24(o0, o1, o2) = {o2, o1, o0}` (R7, R34). -/
def pack24 (o : Lanes Sample8) : DstPixel := o.b ++ o.g ++ o.r

/-! ### The datapath, in an accumulator of any width

The width is the parameter `ACCW`, 32 by default, of which "every value of 18 or more gives the same behaviour" (R16). -/

/-- `sat8(q)`: 255 if `q > 255`, else `q[7:0]`, "defined for every unsigned `q`" (R7). -/
def sat8 {n : Nat} (q : BitVec n) : Sample8 := if 255 < q.toNat then 255 else q.setWidth 8

/-- One lane of ACC: the sample, zero-extended, is added to the accumulator (R91). -/
def accLane {n : Nat} (a : BitVec n) (v : Sample16) : BitVec n := a + v.setWidth n

/-- One lane of EMIT: divide by 256 with the fraction discarded, then saturate (R92). -/
def emitLane {n : Nat} (a : BitVec n) : Sample8 := sat8 (a >>> 8)

/-- The three accumulators after ACC of pixel `p` (R91): the lanes are independent. -/
def accumulate (acc : Lanes (Acc accw)) (p : SrcPixel) : Lanes (Acc accw) :=
  lanesOf fun c => accLane (acc.get c) (chan16 p c)

/-- The output pixel EMIT makes of the three accumulators (R92). -/
def emitPixel (acc : Lanes (Acc accw)) : DstPixel := pack24 (lanesOf fun c => emitLane (acc.get c))

/-! ### Effective addresses, in the `AW` bits of an index (R58, R102) -/

/-- `a_src = (2*Y + dy) * W + (2*X + dx)`. -/
def Regs.srcIndex (r : Regs accw dimw) (dx dy : BitVec 1) (aw : Nat := 32) : Index aw :=
  (2 * r.y.setWidth aw + dy.setWidth aw) * r.width.setWidth aw + (2 * r.x.setWidth aw + dx.setWidth aw)

/-- `a_dst = Y * OW + X`. -/
def Regs.dstIndex (r : Regs accw dimw) (aw : Nat := 32) : Index aw :=
  r.y.setWidth aw * r.outWidth.setWidth aw + r.x.setWidth aw

/-! ### Fields of a write's data word (R55); the other bits are dropped -/

/-- `WDATA[DIMW-1:0]`, by default `WDATA[15:0]`, what `wr WIDTH` and `wr HEIGHT` store (R129, R131). -/
def dimField (v : HostWord) (dimw : Nat := 16) : Dim dimw := v.extractLsb' 0 dimw

/-- `WDATA[3:0]`, what `wr FORMAT` stores in CHANNELS (R133). -/
def channelsField (v : HostWord) : BitVec 4 := v.extractLsb' 0 4

/-- `WDATA[12:8]`, what `wr FORMAT` stores in DEPTH (R133). -/
def depthField (v : HostWord) : BitVec 5 := v.extractLsb' 8 5

/-! ### Result words of a read (R56); the view of STATUS stands in Flags.lean -/

/-- A dimension register as a data word: `zext_32` (R56). -/
def dimWord (d : Dim dimw) : HostWord := d.setWidth 32

/-- The FORMAT word: `zext_32(DEPTH) * 256 + zext_32(CHANNELS)` (R56, R132). -/
def Regs.formatWord (r : Regs accw dimw) : HostWord := r.depth.setWidth 32 * 256 + r.channels.setWidth 32

end Sys2Proof.Machine
end

