-- ==== Sys2Proof/Machine/Ops.lean ====
section
/-! DEFINITION. The named operations over memory and registers: the two pixel memories (20_memory.md R33, R34), the
host's accesses to them (R41), replies to the host, error entry (60_exceptions.md R144), START
(43_host_operations.md R127), the sequencer's advance (42_sequencer.md R103, R104) and reset
(70_reset_and_hazards.md R160). -/

namespace Sys2Proof.Machine

open Sys2Proof

variable {accw dimw aw : Nat}

/-! ### Pixel memories -/

/-- The canonical form: indices strictly rising and inside the index space of `AW` bits, by default 32 (R30). No location
is listed that nothing has written, so two memories with the same written contents are the same data. -/
abbrev Memory.wf {n : Nat} (m : Memory n) (aw : Nat := 32) : Prop :=
  m.Pairwise (fun p q => p.1 < q.1) ∧ ∀ p ∈ m, p.1 < 2 ^ aw

/-- What is stored at index `a`; nothing for a location that nothing has written (R29). -/
def Memory.read {n : Nat} : Memory n → Nat → Option (BitVec n)
  | [], _ => none
  | (b, w) :: m, a => if a = b then some w else Memory.read m a

/-- Store `v` at index `a`; "every other location keeps its content" (R34). -/
def Memory.write {n : Nat} : Memory n → Nat → BitVec n → Memory n
  | [], a, v => [(a, v)]
  | (b, w) :: m, a, v =>
    if a < b then (a, v) :: (b, w) :: m
    else if a = b then (a, v) :: m
    else (b, w) :: Memory.write m a v

/-! ### Updates of one field of the state -/

/-- The state with other registers. -/
def State.setRegs (s : State accw dimw aw) (r : Regs accw dimw) : State accw dimw aw := { s with regs := r }

/-- The state with another SRC. -/
def State.setSrc (s : State accw dimw aw) (m : Memory 48) : State accw dimw aw := { s with src := m }

/-- The state with another DST. -/
def State.setDst (s : State accw dimw aw) (m : Memory 24) : State accw dimw aw := { s with dst := m }

/-- The state with other outside actions to come. -/
def State.setInputs (s : State accw dimw aw) (l : List (HostAction aw)) : State accw dimw aw := { s with inputs := l }

/-- The host is given a reply (R51). -/
def State.reply (s : State accw dimw aw) (r : Reply) : State accw dimw aw := { s with replies := r :: s.replies }

/-! ### Access to SRC and DST -/

/-- What SRC holds at `a`, which is what `SrcRead(a)` returns: it cannot fail and changes nothing (R33). A location
that nothing has written holds an unspecified word, a free value (R164). -/
def State.srcRead (s : State accw dimw aw) (a : Index aw) : SrcPixel :=
  (s.src.read a.toNat).getD (Config.srcPowerUp s.powerUp a)

/-- What DST holds at `a` (R24); only the host reads it (R30). -/
def State.dstRead (s : State accw dimw aw) (a : Index aw) : DstPixel :=
  (s.dst.read a.toNat).getD (Config.dstPowerUp s.powerUp a)

/-- `DstWrite(a, v)` (R34). -/
def State.dstWrite (s : State accw dimw aw) (a : Index aw) (v : DstPixel) : State accw dimw aw :=
  s.setDst (s.dst.write a.toNat v)

/-- The host writes a pixel of SRC (R23, R41); the core enforces no ownership (R41, R166). -/
def State.srcWrite (s : State accw dimw aw) (a : Index aw) (p : SrcPixel) : State accw dimw aw :=
  s.setSrc (s.src.write a.toNat p)

/-! ### Host transactions -/

/-- A register read: RDATA is returned and nothing else changes (R51, R120). -/
def State.readReply (s : State accw dimw aw) (v : HostWord) : State accw dimw aw := s.reply (.rdata v)

/-- A write of a configuration register with the registers it leaves: dropped while BUSY (R125). -/
def State.configWrite (s : State accw dimw aw) (r : Regs accw dimw) : State accw dimw aw :=
  if s.regs.state = .busy then s else s.setRegs r

/-- Scan position and accumulators cleared: `Y <- 0; X <- 0; K <- 0; ACC[0..2] <- 0` (R127, R144). -/
def Regs.clearScan (r : Regs accw dimw) : Regs accw dimw := { r with y := 0, x := 0, k := 0, acc := ⟨0, 0, 0⟩ }

/-- Error entry, `raise <Error>(code)` (R144): STATE and ERR say the error, the output dimensions read 0, the scan
position and the accumulators are cleared, and nothing else changes. There is no saved program counter, no vector and
no mode. There is no operation that returns from it (R148): the next accepted START, `State.start`, rewrites
everything this writes, and so does reset, `State.resetRegs`. -/
def State.raise (s : State accw dimw aw) (code : ErrCode) : State accw dimw aw :=
  s.setRegs { s.regs.clearScan with state := .error, err := code, outWidth := 0, outHeight := 0 }

/-- An accepted START of a buffer whose declared format is right (R127, its last branch): a zero-sized output is
complete at once (R79, R141), any other begins a run. -/
def State.beginRun (s : State accw dimw aw) : State accw dimw aw :=
  let ow := s.regs.width >>> 1
  let oh := s.regs.height >>> 1
  s.setRegs { s.regs.clearScan with
    err := .none, outWidth := ow, outHeight := oh, state := if ow = 0 ∨ oh = 0 then .done else .busy }

/-- START (R127), ignored while BUSY (R137). -/
def State.start (s : State accw dimw aw) : State accw dimw aw :=
  if s.regs.state = .busy then s
  else match s.regs.formatError with
    | some code => s.raise code
    | none => s.beginRun

/-- The reset input (R160): every register takes its reset value, and nothing else happens; SRC and DST keep their
content (R29, R162). -/
def State.resetRegs (s : State accw dimw aw) : State accw dimw aw := s.setRegs (Regs.reset accw dimw)

/-! ### The sequencer -/

/-- The scan position after an EMIT (R104): the next column, or the first column of the next row, or the end of the
run. The comparisons are exact ("on values zero-extended by one bit"). -/
def Regs.advance (r : Regs accw dimw) : Regs accw dimw :=
  if r.x.toNat + 1 < r.outWidth.toNat then { r with k := 0, x := r.x + 1 }
  else if r.y.toNat + 1 < r.outHeight.toNat then { r with k := 0, x := 0, y := r.y + 1 }
  else { r with k := 0, x := 0, y := 0, state := .done }

/-- The ACC step (R91, R103): one source pixel is read and added, and the phase moves on. -/
def State.accStep (s : State accw dimw aw) (dx dy : BitVec 1) : State accw dimw aw :=
  s.setRegs { s.regs with
    acc := accumulate s.regs.acc (s.srcRead (s.regs.srcIndex dx dy aw)), k := s.regs.k + 1 }

/-- The EMIT step (R92, R104): the output pixel is written, the accumulators are cleared, and the scan advances. -/
def State.emitStep (s : State accw dimw aw) : State accw dimw aw :=
  (s.dstWrite (s.regs.dstIndex aw) (emitPixel s.regs.acc)).setRegs
    (Regs.advance { s.regs with acc := ⟨0, 0, 0⟩ })

end Sys2Proof.Machine
end

