-- ==== Sys2Proof/Machine/HostReads.lean ====
section
/-! DEFINITION. The register reads, format HRD (43_host_operations.md R122 to R124, R128, R130, R132, R134, R135).
"A read changes no state" (R120): what it does is to give the host RDATA. -/

namespace Sys2Proof.Machine

open Sys2Proof

variable {accw dimw aw : Nat}

/-- `rd CTRL`: `RDATA <- 0` (R122). -/
def execRdCtrl (s : State accw dimw aw) : Result accw dimw aw := .next (s.readReply 0)

/-- `rd STATUS`: `RDATA <- zext_32(ERR) * 16 + zext_32(STATE)` (R123). -/
def execRdStatus (s : State accw dimw aw) : Result accw dimw aw := .next (s.readReply s.regs.statusWord)

/-- `rd WIDTH`: `RDATA <- zext_32(WIDTH)` (R128). -/
def execRdWidth (s : State accw dimw aw) : Result accw dimw aw := .next (s.readReply (dimWord s.regs.width))

/-- `rd HEIGHT`: `RDATA <- zext_32(HEIGHT)` (R130). -/
def execRdHeight (s : State accw dimw aw) : Result accw dimw aw := .next (s.readReply (dimWord s.regs.height))

/-- `rd FORMAT`: `RDATA <- zext_32(FORMAT.DEPTH) * 256 + zext_32(FORMAT.CHANNELS)` (R132). -/
def execRdFormat (s : State accw dimw aw) : Result accw dimw aw := .next (s.readReply s.regs.formatWord)

/-- `rd OUT_WIDTH`: `RDATA <- zext_32(OUT_WIDTH)` (R134). -/
def execRdOutWidth (s : State accw dimw aw) : Result accw dimw aw := .next (s.readReply (dimWord s.regs.outWidth))

/-- `rd OUT_HEIGHT`: `RDATA <- zext_32(OUT_HEIGHT)` (R135). -/
def execRdOutHeight (s : State accw dimw aw) : Result accw dimw aw := .next (s.readReply (dimWord s.regs.outHeight))

/-- `rd @off` for a reserved offset: `RDATA <- 0`, whichever the offset (R124). -/
def execRdReserved (_off : Offset) (s : State accw dimw aw) : Result accw dimw aw := .next (s.readReply 0)

end Sys2Proof.Machine
end

