-- ==== Sys2Proof/Machine/HostWrites.lean ====
section
/-! DEFINITION. The register writes, format HWR (43_host_operations.md R124 to R127, R129, R131, R133, R136, R137).
"a write returns nothing" (R51). -/

namespace Sys2Proof.Machine

open Sys2Proof

variable {accw dimw aw : Nat}

/-- `wr CTRL, v` with `v[0] = 1`: START, or nothing while BUSY (R127, R137). Bits 31 to 1 of `v` are ignored (R21), and
bit 0 is 1 in every encoding of this operation (R53; log entry 11). -/
def execWrCtrlStart (_v : HostWord) (s : State accw dimw aw) : Result accw dimw aw := .next s.start

/-- `wr CTRL, v` with `v[0] = 0`: no state is written, in any STATE (R126). -/
def execWrCtrlNop (_v : HostWord) (s : State accw dimw aw) : Result accw dimw aw := .next s

/-- `wr WIDTH, v`: `WIDTH <- v[15:0]`, dropped while BUSY (R129, R125). -/
def execWrWidth (v : HostWord) (s : State accw dimw aw) : Result accw dimw aw :=
  .next (s.configWrite { s.regs with width := dimField v dimw })

/-- `wr HEIGHT, v`: `HEIGHT <- v[15:0]`, dropped while BUSY (R131, R125). -/
def execWrHeight (v : HostWord) (s : State accw dimw aw) : Result accw dimw aw :=
  .next (s.configWrite { s.regs with height := dimField v dimw })

/-- `wr FORMAT, v`: `FORMAT.CHANNELS <- v[3:0]; FORMAT.DEPTH <- v[12:8]`, dropped while BUSY (R133, R125). -/
def execWrFormat (v : HostWord) (s : State accw dimw aw) : Result accw dimw aw :=
  .next (s.configWrite { s.regs with channels := channelsField v, depth := depthField v })

/-- `wr STATUS, v`: a read-only register, no state is written (R136). -/
def execWrStatus (_v : HostWord) (s : State accw dimw aw) : Result accw dimw aw := .next s

/-- `wr OUT_WIDTH, v`: a read-only register, no state is written (R136). -/
def execWrOutWidth (_v : HostWord) (s : State accw dimw aw) : Result accw dimw aw := .next s

/-- `wr OUT_HEIGHT, v`: a read-only register, no state is written (R136). -/
def execWrOutHeight (_v : HostWord) (s : State accw dimw aw) : Result accw dimw aw := .next s

/-- `wr @off, v` for a reserved offset: no state is written (R124). -/
def execWrReserved (_off : Offset) (_v : HostWord) (s : State accw dimw aw) : Result accw dimw aw := .next s

end Sys2Proof.Machine
end

