-- ==== Sys2Proof/Machine/MicroOps.lean ====
section
/-! DEFINITION. The micro-operations, format UOP (41_datapath_operations.md R91, R92; 42_sequencer.md R103, R104).
Each is what one core step does; that a core step is enabled only while BUSY (R100) is the turn's to decide
(Fetch.lean, log entry 8). -/

namespace Sys2Proof.Machine

open Sys2Proof

variable {accw dimw aw : Nat}

/-- `ACC dx, dy` and the sequencer's `K <- K + 1` (R91, R103). -/
def execAcc (dx dy : BitVec 1) (s : State accw dimw aw) : Result accw dimw aw := .next (s.accStep dx dy)

/-- `EMIT` and the sequencer's advance (R92, R104). -/
def execEmit (s : State accw dimw aw) : Result accw dimw aw := .next s.emitStep

/-- A core step with `K` = 5: "a fault of the model, not … an operation" (R59, V9). -/
def execReservedSel5 (_s : State accw dimw aw) : Result accw dimw aw := .fault (.reservedSelector 5)

/-- A core step with `K` = 6: "a fault of the model, not … an operation" (R59, V9). -/
def execReservedSel6 (_s : State accw dimw aw) : Result accw dimw aw := .fault (.reservedSelector 6)

/-- A core step with `K` = 7: "a fault of the model, not … an operation" (R59, V9). -/
def execReservedSel7 (_s : State accw dimw aw) : Result accw dimw aw := .fault (.reservedSelector 7)

end Sys2Proof.Machine
end

