-- ==== Sys2Proof/Syntax.lean ====
section
/-! DEFINITION. The operations of TWOSTOP-CORE: one constructor for each row of spec/opcode_table.json, in the
table's order: host transactions (formats HRD and HWR) and micro-operations (format UOP) (30_encoding.md R50). -/

namespace Sys2Proof

/-- An operation: what a host transaction word or a phase selector stands for. The data of a read is not an operand:
"`WDATA` takes no part in the decoding or in the result" (R52). -/
inductive Instr where
  /-- `rd CTRL` (R122). -/
  | rdCtrl
  /-- `rd STATUS` (R123). -/
  | rdStatus
  /-- `rd WIDTH` (R128). -/
  | rdWidth
  /-- `rd HEIGHT` (R130). -/
  | rdHeight
  /-- `rd FORMAT` (R132). -/
  | rdFormat
  /-- `rd OUT_WIDTH` (R134). -/
  | rdOutWidth
  /-- `rd OUT_HEIGHT` (R135). -/
  | rdOutHeight
  /-- `wr CTRL, v` with `v[0] = 1`: START (R127, R137). -/
  | wrCtrlStart (v : HostWord)
  /-- `wr CTRL, v` with `v[0] = 0`: no operation (R126). -/
  | wrCtrlNop (v : HostWord)
  /-- `wr WIDTH, v` (R129, R125). -/
  | wrWidth (v : HostWord)
  /-- `wr HEIGHT, v` (R131, R125). -/
  | wrHeight (v : HostWord)
  /-- `wr FORMAT, v` (R133, R125). -/
  | wrFormat (v : HostWord)
  /-- `wr STATUS, v`: a read-only register, ignored (R136). -/
  | wrStatus (v : HostWord)
  /-- `wr OUT_WIDTH, v`: a read-only register, ignored (R136). -/
  | wrOutWidth (v : HostWord)
  /-- `wr OUT_HEIGHT, v`: a read-only register, ignored (R136). -/
  | wrOutHeight (v : HostWord)
  /-- `rd @off` for a reserved offset (R124). -/
  | rdReserved (off : Offset)
  /-- `wr @off, v` for a reserved offset, ignored (R124). -/
  | wrReserved (off : Offset) (v : HostWord)
  /-- `ACC dx, dy` (R91, R103): `dx` is the column offset and `dy` the row offset inside the block. -/
  | acc (dx dy : BitVec 1)
  /-- `EMIT` (R92, R104). -/
  | emit
  /-- The reserved selector `K` = 5 (R57, R59). -/
  | reservedSel5
  /-- The reserved selector `K` = 6 (R57, R59). -/
  | reservedSel6
  /-- The reserved selector `K` = 7 (R57, R59). -/
  | reservedSel7
  deriving DecidableEq, Repr

end Sys2Proof
end

