-- ==== Sys2Proof/Machine/Dispatch.lean ====
section
/-! DEFINITION. One arm for each constructor of `Instr`. -/

namespace Sys2Proof.Machine

open Sys2Proof

def exec (i : Instr) (s : State) : Host.Outcome State Fault Refusal :=
  match i with
  | .rdCtrl => Sys2Proof.Machine.execRdCtrl s
  | .rdStatus => Sys2Proof.Machine.execRdStatus s
  | .rdWidth => Sys2Proof.Machine.execRdWidth s
  | .rdHeight => Sys2Proof.Machine.execRdHeight s
  | .rdFormat => Sys2Proof.Machine.execRdFormat s
  | .rdOutWidth => Sys2Proof.Machine.execRdOutWidth s
  | .rdOutHeight => Sys2Proof.Machine.execRdOutHeight s
  | .wrCtrlStart v => Sys2Proof.Machine.execWrCtrlStart v s
  | .wrCtrlNop v => Sys2Proof.Machine.execWrCtrlNop v s
  | .wrWidth v => Sys2Proof.Machine.execWrWidth v s
  | .wrHeight v => Sys2Proof.Machine.execWrHeight v s
  | .wrFormat v => Sys2Proof.Machine.execWrFormat v s
  | .wrStatus v => Sys2Proof.Machine.execWrStatus v s
  | .wrOutWidth v => Sys2Proof.Machine.execWrOutWidth v s
  | .wrOutHeight v => Sys2Proof.Machine.execWrOutHeight v s
  | .rdReserved off => Sys2Proof.Machine.execRdReserved off s
  | .wrReserved off v => Sys2Proof.Machine.execWrReserved off v s
  | .acc dx dy => Sys2Proof.Machine.execAcc dx dy s
  | .emit => Sys2Proof.Machine.execEmit s
  | .reservedSel5 => Sys2Proof.Machine.execReservedSel5 s
  | .reservedSel6 => Sys2Proof.Machine.execReservedSel6 s
  | .reservedSel7 => Sys2Proof.Machine.execReservedSel7 s

end Sys2Proof.Machine
end

