-- ==== Sys2Proof/WellFormed.lean ====
section
/-! DEFINITION. Which terms of `Instr` stand for a row of the opcode table: the operand values the row's mask and
match, or its note on reserved offsets, admit (30_encoding.md R53, R54). -/

namespace Sys2Proof

/-- The offsets that name no register: every one but the seven of the register map (R54, last row). -/
def isReservedOffset (off : Offset) : Bool :=
  off != 0x00 && off != 0x04 && off != 0x08 && off != 0x0C && off != 0x10 && off != 0x14 && off != 0x18

/-- `i` is what some encoding stands for: bit 0 of the data tells START from the write of CTRL that does nothing
(R53), and the reserved rows hold a reserved offset (R54). Every other operand takes every value (R53: "No value of
`WDATA` is illegal"). -/
def Instr.wf : Instr → Bool
  | .rdCtrl => true
  | .rdStatus => true
  | .rdWidth => true
  | .rdHeight => true
  | .rdFormat => true
  | .rdOutWidth => true
  | .rdOutHeight => true
  | .wrCtrlStart v => v.getLsbD 0
  | .wrCtrlNop v => !v.getLsbD 0
  | .wrWidth _ => true
  | .wrHeight _ => true
  | .wrFormat _ => true
  | .wrStatus _ => true
  | .wrOutWidth _ => true
  | .wrOutHeight _ => true
  | .rdReserved off => isReservedOffset off
  | .wrReserved off _ => isReservedOffset off
  | .acc _ _ => true
  | .emit => true
  | .reservedSel5 => true
  | .reservedSel6 => true
  | .reservedSel7 => true

end Sys2Proof
end

