-- ==== Sys2Proof/Decode.lean ====
section
/-! DEFINITION. Decoding and encoding: the 41-bit host transaction word (30_encoding.md R51 to R54) and the 3-bit
micro-operation selector (R57). "No encoding is illegal" (R59), so both decoders are total; what is rejected, by
name, is a number that is no word of either format. -/

namespace Sys2Proof

/-- The two things that have an encoding (R50). -/
inductive Encoded where
  /-- A host transaction word (R51). -/
  | txn (t : TxnWord)
  /-- A micro-operation selector (R57). -/
  | uop (k : Selector)
  deriving DecidableEq, Repr

/-- Why a number of bits and a value are no encoding. -/
inductive DecodeError where
  /-- No format of the spec has this length: they have 41 and 3 bits (R60). -/
  | noSuchLength (nbits : Nat)
  /-- The value has a bit above the format's last one. -/
  | tooWide (nbits w : Nat)
  deriving DecidableEq, Repr

/-- `WE = T[40]` (R51). -/
def TxnWord.we (t : TxnWord) : Bool := t.getLsbD 40

/-- `OFF = T[39:32]` (R51). -/
def TxnWord.off (t : TxnWord) : Offset := t.extractLsb' 32 8

/-- `WDATA = T[31:0]` (R51). -/
def TxnWord.wdata (t : TxnWord) : HostWord := t.extractLsb' 0 32

/-- Format HRD: `OFF` alone selects the operation (R52, R54). -/
def decodeRead (off : Offset) : Instr :=
  if off = 0x00 then .rdCtrl
  else if off = 0x04 then .rdStatus
  else if off = 0x08 then .rdWidth
  else if off = 0x0C then .rdHeight
  else if off = 0x10 then .rdFormat
  else if off = 0x14 then .rdOutWidth
  else if off = 0x18 then .rdOutHeight
  else .rdReserved off

/-- Format HWR: `OFF` selects the operation, and for CTRL bit 0 of the data with it (R53, R54). -/
def decodeWrite (off : Offset) (v : HostWord) : Instr :=
  if off = 0x00 then (if v.getLsbD 0 then .wrCtrlStart v else .wrCtrlNop v)
  else if off = 0x04 then .wrStatus v
  else if off = 0x08 then .wrWidth v
  else if off = 0x0C then .wrHeight v
  else if off = 0x10 then .wrFormat v
  else if off = 0x14 then .wrOutWidth v
  else if off = 0x18 then .wrOutHeight v
  else .wrReserved off v

/-- The operation a host transaction word stands for (R50 to R54). -/
def decodeTxn (t : TxnWord) : Instr :=
  if TxnWord.we t then decodeWrite (TxnWord.off t) (TxnWord.wdata t) else decodeRead (TxnWord.off t)

/-- The operation a selector stands for (R57): `0 dy dx` is `ACC dx, dy`, `1 0 0` is `EMIT`, the rest is reserved. -/
def decodeSelector (k : Selector) : Instr :=
  if k.toNat ≤ 3 then .acc (k.extractLsb' 0 1) (k.extractLsb' 1 1)
  else if k = 4 then .emit
  else if k = 5 then .reservedSel5
  else if k = 6 then .reservedSel6
  else .reservedSel7

/-- Decoding, total (R59). -/
def decode : Encoded → Instr
  | .txn t => decodeTxn t
  | .uop k => decodeSelector k

/-- The encoding that `nbits` bits of value `w` are: 41 bits (48 in whole bytes) make a transaction word, 3 bits (8 in
whole bytes) a selector, and the bits above the format's last are 0. -/
def encodedOfBits (nbits w : Nat) : Except DecodeError Encoded :=
  if nbits = 41 ∨ nbits = 48 then
    if w < 2 ^ 41 then .ok (.txn (BitVec.ofNat 41 w)) else .error (.tooWide nbits w)
  else if nbits = 3 ∨ nbits = 8 then
    if w < 2 ^ 3 then .ok (.uop (BitVec.ofNat 3 w)) else .error (.tooWide nbits w)
  else .error (.noSuchLength nbits)

/-- The instruction the decoder reads from an instruction whose bits are `w`, numbered as spec/opcode_table.json
numbers them. -/
def decodeTableWord (nbits w : Nat) : Option Instr :=
  match encodedOfBits nbits w with
  | .ok e => some (decode e)
  | .error _ => none

/-! ### The encoder -/

/-- A read's word; the data field is 0, as the assembler emits it (R51, R61). -/
def readWord (off : Offset) : TxnWord := (0#1 ++ off ++ 0#32 : BitVec 41)

/-- A write's word (R51, R61). -/
def writeWord (off : Offset) (v : HostWord) : TxnWord := (1#1 ++ off ++ v : BitVec 41)

/-- The selector `0 dy dx` (R57). -/
def accSelector (dx dy : BitVec 1) : Selector := (0#1 ++ dy ++ dx : BitVec 3)

/-- The encoding of an operation, from the tables of R54, R57 and R61. -/
def encode : Instr → Encoded
  | .rdCtrl => .txn (readWord 0x00)
  | .rdStatus => .txn (readWord 0x04)
  | .rdWidth => .txn (readWord 0x08)
  | .rdHeight => .txn (readWord 0x0C)
  | .rdFormat => .txn (readWord 0x10)
  | .rdOutWidth => .txn (readWord 0x14)
  | .rdOutHeight => .txn (readWord 0x18)
  | .wrCtrlStart v => .txn (writeWord 0x00 v)
  | .wrCtrlNop v => .txn (writeWord 0x00 v)
  | .wrWidth v => .txn (writeWord 0x08 v)
  | .wrHeight v => .txn (writeWord 0x0C v)
  | .wrFormat v => .txn (writeWord 0x10 v)
  | .wrStatus v => .txn (writeWord 0x04 v)
  | .wrOutWidth v => .txn (writeWord 0x14 v)
  | .wrOutHeight v => .txn (writeWord 0x18 v)
  | .rdReserved off => .txn (readWord off)
  | .wrReserved off v => .txn (writeWord off v)
  | .acc dx dy => .uop (accSelector dx dy)
  | .emit => .uop 4
  | .reservedSel5 => .uop 5
  | .reservedSel6 => .uop 6
  | .reservedSel7 => .uop 7

end Sys2Proof
end

