-- ==== Sys2Proof/Machine/Fetch.lean ====
section
/-! DEFINITION. Which agent has the next step and what it does (00_scope.md R8; 42_sequencer.md R100, R101). The core
fetches no instructions (10_state.md R26): a host transaction comes from the host as a 41-bit word, a micro-operation
from the phase register K while BUSY. -/

namespace Sys2Proof.Machine

open Sys2Proof

/-- What the next step is: an operation performed in a state, or a state reached with no operation of the table. -/
inductive Turn (accw dimw aw : Nat) where
  /-- Perform the operation `i` in the state `s`. -/
  | perform (i : Instr) (s : State accw dimw aw)
  /-- The step leads to `s`: a pixel access of the host, a reset, or a core that has nothing to do. -/
  | rest (s : State accw dimw aw)
  deriving DecidableEq, Repr

variable {accw dimw aw : Nat}

/-- The core's turn: "enabled exactly when `STATE = BUSY`"; else it "changes no state" (R100). `K` selects the
micro-operation "and nothing else" (R57). -/
def coreTurn (s : State accw dimw aw) : Turn accw dimw aw :=
  if s.regs.state = .busy then .perform (decodeSelector s.regs.k) s else .rest s

/-- What the next outside action, or the core when none is left, does. -/
def nextTurn (s : State accw dimw aw) : Turn accw dimw aw :=
  match s.inputs with
  | [] => coreTurn s
  | .coreTurn :: l => coreTurn (s.setInputs l)
  | .txn t :: l => .perform (decodeTxn t) (s.setInputs l)
  | .writeSrc a p :: l => .rest ((s.setInputs l).srcWrite a p)
  | .readSrc a :: l => .rest ((s.setInputs l).reply (.srcPixel (s.srcRead a)))
  | .writeDst a v :: l => .rest ((s.setInputs l).dstWrite a v)
  | .readDst a :: l => .rest ((s.setInputs l).reply (.dstPixel (s.dstRead a)))
  | .reset :: l => .rest (s.setInputs l).resetRegs

/-- The state in which the next step performs what `e` encodes: a transaction word is presented by the host, a
selector stands in K of a core that is BUSY and has the turn (log entry 6). -/
def State.present (s : State accw dimw aw) : Encoded → State accw dimw aw
  | .txn t => s.setInputs (.txn t :: s.inputs)
  | .uop k => (s.setRegs { s.regs with state := .busy, k := k }).setInputs (.coreTurn :: s.inputs)

end Sys2Proof.Machine
end

