-- ==== Sys2Proof/Machine/Step.lean ====
section
/-! DEFINITION. One step of the machine: one host transaction, one host pixel access, one reset, or one core step,
each atomic (00_scope.md R8; 42_sequencer.md R101). -/

namespace Sys2Proof.Machine

open Sys2Proof

/-- One step. -/
def step (s : State) : Host.Outcome State Fault Refusal :=
  match nextTurn s with
  | .perform i s' => exec i s'
  | .rest s' => .next s'

/-- `s` with the instruction of `nbits` bits `w` where the next step takes it from; `s` itself where those bits are no
encoding. -/
def State.withFetchWord (s : State) (nbits w : Nat) : State :=
  match encodedOfBits nbits w with
  | .ok e => s.present e
  | .error _ => s

end Sys2Proof.Machine
end

