-- ==== Sys2Proof/Machine/HostCall.lean ====
section
/-! DEFINITION. The text forms of host transactions and the pseudo-operations (30_encoding.md R61, R62), and the
source's one call as a host performs it, from the buffer it hands over to the value it gets back (43_host_operations.md
R138). Nothing of the machine depends on this file: it says what a host does with the machine. -/

namespace Sys2Proof.Machine

open Sys2Proof

/-- A register name of the text form (R61). -/
inductive RegName where
  | ctrl
  | status
  | width
  | height
  | format
  | outWidth
  | outHeight
  deriving DecidableEq, Repr

/-- `OFF(REG)` (R54). -/
def RegName.offset : RegName → Offset
  | .ctrl => 0x00
  | .status => 0x04
  | .width => 0x08
  | .height => 0x0C
  | .format => 0x10
  | .outWidth => 0x14
  | .outHeight => 0x18

/-- One line of text, one transaction (R61). -/
inductive Line where
  /-- `rd REG`. -/
  | rd (reg : RegName)
  /-- `rd @off`. -/
  | rdAt (off : Offset)
  /-- `wr REG, value`. -/
  | wr (reg : RegName) (value : HostWord)
  /-- `wr @off, value`. -/
  | wrAt (off : Offset) (value : HostWord)
  deriving DecidableEq, Repr

/-- The word of a line: `OFF << 32`, with `0x10000000000` and the value for a write (R61). -/
def Line.assemble : Line → TxnWord
  | .rd reg => reg.offset.setWidth 41 <<< 32
  | .rdAt off => off.setWidth 41 <<< 32
  | .wr reg value => 0x10000000000#41 ||| (reg.offset.setWidth 41 <<< 32) ||| value.setWidth 41
  | .wrAt off value => 0x10000000000#41 ||| (off.setWidth 41 <<< 32) ||| value.setWidth 41

/-- A pseudo-operation (R62). `wait` repeats its expansion until `waitOver` of what the read returns. -/
inductive Pseudo where
  /-- `start`: the call. -/
  | start
  /-- `setdim w, h`. -/
  | setdim (w h : HostWord)
  /-- `setfmt ch, depth`. -/
  | setfmt (ch depth : HostWord)
  /-- One poll of `wait`. -/
  | wait
  /-- `getdim`. -/
  | getdim
  deriving DecidableEq, Repr

/-- The expansion of a pseudo-operation (R62). -/
def Pseudo.expand : Pseudo → List Line
  | .start => [.wr .ctrl 1]
  | .setdim w h => [.wr .width w, .wr .height h]
  | .setfmt ch depth => [.wr .format ((depth <<< 8) ||| ch)]
  | .wait => [.rd .status]
  | .getdim => [.rd .outWidth, .rd .outHeight]

/-- The STATUS word that ends `wait`: "`RDATA[1:0]` is 2 (DONE) or 3 (ERROR)" (R62). -/
def waitOver (rdata : HostWord) : Bool := rdata.extractLsb' 0 2 == 2 || rdata.extractLsb' 0 2 == 3

/-- A pseudo-operation as host actions. -/
def Pseudo.actions (p : Pseudo) : List HostAction := p.expand.map fun l => .txn l.assemble

/-- The Provider hands over the source buffer: the pixels in row-major order go to SRC from index `a` on (R31, R138). -/
def provide : Nat → List SrcPixel → List HostAction
  | _, [] => []
  | a, p :: l => .writeSrc (BitVec.ofNat 32 a) p :: provide (a + 1) l

/-- The first part of the call, up to and with START (R138, R163). "FORMAT may be left at its reset value": without
`setFormat` it is not written. -/
def callActions (pixels : List SrcPixel) (w h : HostWord) (setFormat : Bool := true) : List HostAction :=
  provide 0 pixels ++ ((Pseudo.setdim w h).actions ++
    ((if setFormat then (Pseudo.setfmt 3 16).actions else []) ++ Pseudo.start.actions))

/-- The Sink takes the output buffer: DST indices `a` to `a + n - 1` are read (R32, R138). -/
def take : Nat → Nat → List HostAction
  | _, 0 => []
  | a, n + 1 => .readDst (BitVec.ofNat 32 a) :: take (a + 1) n

/-! ### The call as a whole (R138)

What the host does after START depends on what it is given back, so the call is a program of the host, with a state of
its own, that performs one action at a time and hears the reply. -/

/-- The end of the call's wait, "`repeat rd STATUS until RDATA[1:0] != 1`" (R138). It differs from `waitOver`, the test
of R62, on a STATUS of IDLE, which a host sees when a reset ends the run. -/
def pollOver (rdata : HostWord) : Bool := rdata.extractLsb' 0 2 != 1

/-- "`failure, code RDATA[7:4]`" (R138). -/
def failureCode (rdata : HostWord) : BitVec 4 := rdata.extractLsb' 4 4

/-- Where the host stands in a call (R138). -/
inductive Call where
  /-- It hands over the buffer and calls: `a` is next, then `l`. -/
  | giving (a : HostAction) (l : List HostAction)
  /-- It waits for the return: STATUS is read next. -/
  | waiting
  /-- The run is done: OUT_WIDTH is read next. -/
  | askingWidth
  /-- OUT_HEIGHT is read next. -/
  | askingHeight (ow : HostWord)
  /-- The Sink has taken the pixels `got`: `a` is next, then `l`. -/
  | taking (ow oh : HostWord) (got : List DstPixel) (a : HostAction) (l : List HostAction)
  /-- The call has returned its output buffer, in row-major order. -/
  | output (ow oh : HostWord) (pixels : List DstPixel)
  /-- The call has failed with an error code: "DST holds no result". -/
  | failure (code : BitVec 4)
  /-- The wait has ended in IDLE, to which R138 gives neither a result nor a failure: a reset ended the run (R162). The
  model's own name for it (log entry 20). -/
  | noReturn
  deriving DecidableEq, Repr

/-- The rest of the first part of the call, and then the wait (R138). -/
def Call.give : List HostAction → Call
  | [] => .waiting
  | a :: l => .giving a l

/-- The rest of the Sink's reads, and then the output (R138). -/
def Call.collect (ow oh : HostWord) (got : List DstPixel) : List HostAction → Call
  | [] => .output ow oh got
  | a :: l => .taking ow oh got a l

/-- What a host does after a poll that returned `rdata` (R138). -/
def Call.afterPoll (rdata : HostWord) : Call :=
  if !pollOver rdata then .waiting
  else if rdata.extractLsb' 0 2 = 3 then .failure (failureCode rdata)
  else if rdata.extractLsb' 0 2 = 2 then .askingWidth
  else .noReturn

/-- The call of a buffer of `w` by `h` pixels (R138). -/
def Call.begin (pixels : List SrcPixel) (w h : HostWord) (setFormat : Bool) : Call :=
  .give (callActions pixels w h setFormat)

/-- What the host does next; nothing once the call has returned. -/
def Call.action : Call → Option HostAction
  | .giving a _ => some a
  | .waiting => some (.txn (Line.rd .status).assemble)
  | .askingWidth => some (.txn (Line.rd .outWidth).assemble)
  | .askingHeight _ => some (.txn (Line.rd .outHeight).assemble)
  | .taking _ _ _ a _ => some a
  | .output _ _ _ => none
  | .failure _ => none
  | .noReturn => none

/-- Where the host stands when its action is done, with the newest reply it has. A write has no reply (R51); with a
reply of another kind, which no action here brings, it stands where it stood. -/
def Call.hear : Call → Option Reply → Call
  | .giving _ l, _ => .give l
  | .waiting, some (.rdata v) => .afterPoll v
  | .askingWidth, some (.rdata ow) => .askingHeight ow
  | .askingHeight ow, some (.rdata oh) => .collect ow oh [] (take 0 (ow.toNat * oh.toNat))
  | .taking ow oh got _ l, some (.dstPixel v) => .collect ow oh (got ++ [v]) l
  | c, _ => c

/-- Who takes a turn while a call is under way (R8, R160). -/
inductive Agent where
  /-- The host performs the next action of its call, if there is one. -/
  | host
  /-- The core has one step. -/
  | core
  /-- The reset input; the host does not see it. -/
  | reset
  deriving DecidableEq, Repr

/-- One step of the machine with `a` from outside; no state where the machine stops. -/
def State.act (s : State) (a : HostAction) : Option State :=
  match step (s.setInputs [a]) with
  | .next t => some t
  | .fault _ => none
  | .refused _ => none

/-- One turn of one agent. The schedule of the turns stands in for the list `inputs` (log entries 1 and 20). -/
def Call.turn (c : Call) (s : State) : Agent → Option (Call × State)
  | .core => (s.act .coreTurn).map fun t => (c, t)
  | .reset => (s.act .reset).map fun t => (c, t)
  | .host =>
    match c.action with
    | none => some (c, s)
    | some a => (s.act a).map fun t => (c.hear t.replies.head?, t)

/-- The turns of a schedule, in order. -/
def Call.turns (c : Call) (s : State) : List Agent → Option (Call × State)
  | [] => some (c, s)
  | a :: l => (c.turn s a).bind fun p => p.1.turns p.2 l

end Sys2Proof.Machine
end

