-- ==== Sys2Proof/Machine/Parametric.lean ====
section
/-! DEFINITION. The machine for any accumulator width `ACCW` and dimension width `DIMW` (00_scope.md R5), the address
width being `2 * DIMW`. The operations are the ones of the other files, which take the widths as arguments; `exec` and
`step`, whose form is fixed, are these functions at the default widths, 32 and 16 (Laws/Ops.lean). -/

namespace Sys2Proof.Machine

open Sys2Proof

variable {accw dimw aw : Nat}

/-- The meaning of an operation, for any widths. -/
def execAt (i : Instr) (s : State accw dimw aw) : Result accw dimw aw :=
  match i with
  | .rdCtrl => execRdCtrl s
  | .rdStatus => execRdStatus s
  | .rdWidth => execRdWidth s
  | .rdHeight => execRdHeight s
  | .rdFormat => execRdFormat s
  | .rdOutWidth => execRdOutWidth s
  | .rdOutHeight => execRdOutHeight s
  | .wrCtrlStart v => execWrCtrlStart v s
  | .wrCtrlNop v => execWrCtrlNop v s
  | .wrWidth v => execWrWidth v s
  | .wrHeight v => execWrHeight v s
  | .wrFormat v => execWrFormat v s
  | .wrStatus v => execWrStatus v s
  | .wrOutWidth v => execWrOutWidth v s
  | .wrOutHeight v => execWrOutHeight v s
  | .rdReserved off => execRdReserved off s
  | .wrReserved off v => execWrReserved off v s
  | .acc dx dy => execAcc dx dy s
  | .emit => execEmit s
  | .reservedSel5 => execReservedSel5 s
  | .reservedSel6 => execReservedSel6 s
  | .reservedSel7 => execReservedSel7 s

/-- One step, for any widths. -/
def stepAt (s : State accw dimw aw) : Result accw dimw aw :=
  match nextTurn s with
  | .perform i s' => execAt i s'
  | .rest s' => .next s'

/-- The machine for an accumulator width and a dimension width (R5). -/
def coreAt (accw dimw : Nat) : Host.Core :=
  { State := State accw dimw (2 * dimw), Fault := Fault, Refusal := Refusal, step := stepAt,
    reset := State.powerOn accw dimw (2 * dimw) }

end Sys2Proof.Machine
end

