-- ==== Sys2Proof/Machine/Transform.lean ====
section
/-! DEFINITION. The transform as a function of buffers, from 40_transform_function.md alone (R70 to R80): it knows
nothing of registers, steps or memory indices. What a run leaves in DST is stated against it (R109). -/

namespace Sys2Proof.Machine

open Sys2Proof

/-- A PixelBuffer: its dimensions and the sample of channel `c` at column `col` and row `row` (R9, R70). Only samples
with `col < width` and `row < height` belong to it. -/
structure PixelBuffer (n : Nat) where
  /-- Pixels in a row. -/
  width : Nat
  /-- Rows. -/
  height : Nat
  /-- The sample at a column, a row and a channel. -/
  sample : Nat → Nat → Fin 3 → BitVec n

/-- Step 1 (R73, R74): the sum of the four samples of the block of output `(x, y)`, as an integer. -/
def PixelBuffer.blockSum (b : PixelBuffer 16) (x y : Nat) (c : Fin 3) : Nat :=
  (b.sample (2 * x) (2 * y) c).toNat + (b.sample (2 * x + 1) (2 * y) c).toNat
    + (b.sample (2 * x) (2 * y + 1) c).toNat + (b.sample (2 * x + 1) (2 * y + 1) c).toNat

/-- Steps 2 to 4 (R75 to R78): divide by 256 and discard the fraction, then clamp at 255. -/
def outputSample (sum : Nat) : Nat := min (sum / 256) 255

/-- `transform(source)` (R70, R72, R78): half the width, half the height, one output sample for each block. -/
def transform (b : PixelBuffer 16) : PixelBuffer 8 where
  width := b.width / 2
  height := b.height / 2
  sample x y c := BitVec.ofNat 8 (outputSample (b.blockSum x y c))

/-- The buffer without its odd last column and row, "cropped to `(W - W%2) × (H - H%2)`" (R80); outside it there is
nothing, here 0. -/
def PixelBuffer.crop (b : PixelBuffer 16) : PixelBuffer 16 where
  width := b.width - b.width % 2
  height := b.height - b.height % 2
  sample col row c :=
    if col < b.width - b.width % 2 ∧ row < b.height - b.height % 2 then b.sample col row c else 0

/-- The buffer of `width` columns and `height` rows with the given pixels in row-major order (R31). -/
def PixelBuffer.ofPixels (pixels : List SrcPixel) (width height : Nat) : PixelBuffer 16 where
  width := width
  height := height
  sample col row c := chan16 (pixels.getD (row * width + col) 0) c

/-- The source buffer that SRC holds for the dimensions in the registers, by the layout of R31. -/
def State.sourceBuffer {accw dimw aw : Nat} (s : State accw dimw aw) : PixelBuffer 16 where
  width := s.regs.width.toNat
  height := s.regs.height.toNat
  sample col row c := chan16 (s.srcRead (BitVec.ofNat aw (row * s.regs.width.toNat + col))) c

end Sys2Proof.Machine
end

