-- ==== Sys2Proof/Safety.lean ====
section
/-! DEFINITION. What claims call a sound state and a well-behaved host: the invariant of 42_sequencer.md R108 with the
legal values of 10_state.md R11, R12, R17, R20; the invariant of a run's data (R42, R108, R109); the host's duties
(70_reset_and_hazards.md R166, R167); and the length of a run (R110). -/

namespace Sys2Proof.Machine

open Sys2Proof

/-- STATE and ERR agree: ERR "is 0 whenever `STATE` is IDLE, BUSY or DONE" (R12), and in ERROR it is one of the two
codes a START raises (R142, R143). -/
def Regs.ErrOk (r : Regs) : Prop :=
  match r.state with
  | .error => r.err = .channelCountMismatch ∨ r.err = .unsupportedBitDepth
  | _ => r.err = .none

/-- The registers during a run (R108). -/
structure Regs.RunOk (r : Regs) : Prop where
  /-- `OUT_WIDTH = WIDTH >> 1`. -/
  outWidth : r.outWidth.toNat = r.width.toNat / 2
  /-- `OUT_HEIGHT = HEIGHT >> 1`. -/
  outHeight : r.outHeight.toNat = r.height.toNat / 2
  /-- `X < OUT_WIDTH`. -/
  x : r.x.toNat < r.outWidth.toNat
  /-- `Y < OUT_HEIGHT`. -/
  y : r.y.toNat < r.outHeight.toNat
  /-- `K <= 4`. -/
  k : r.k.toNat ≤ 4
  /-- `ACC[c] <= K * 65535`. -/
  acc : ∀ c, (r.acc.get c).toNat ≤ r.k.toNat * 65535

/-- The registers outside a run: "`Y = 0`, `X = 0`, `K = 0`, `ACC[c] = 0`" (R108). -/
structure Regs.RestOk (r : Regs) : Prop where
  /-- `Y = 0`. -/
  y : r.y = 0
  /-- `X = 0`. -/
  x : r.x = 0
  /-- `K = 0`. -/
  k : r.k = 0
  /-- `ACC[c] = 0`. -/
  acc : r.acc = ⟨0, 0, 0⟩

/-- The invariant of the machine. -/
structure State.Inv (s : State) : Prop where
  /-- ERR agrees with STATE (R12). -/
  err : s.regs.ErrOk
  /-- The output dimensions are halves of 16-bit values: "its top bit is always 0" (R17, R18). -/
  halves : s.regs.outWidth.toNat ≤ 32767 ∧ s.regs.outHeight.toNat ≤ 32767
  /-- They read 0 before the first START and after a refused one (R29, R144, R168). -/
  noResult : s.regs.state = .idle ∨ s.regs.state = .error → s.regs.outWidth = 0 ∧ s.regs.outHeight = 0
  /-- During a run (R108). -/
  run : s.regs.state = .busy → s.regs.RunOk
  /-- Outside a run (R108). -/
  rest : s.regs.state ≠ .busy → s.regs.RestOk
  /-- SRC is in canonical form. -/
  src : s.src.wf
  /-- DST is in canonical form. -/
  dst : s.dst.wf

/-- The sum of sample `c` over the first `k` source pixels of the block of `(x, y)`, in the order of R102: `(2x, 2y)`,
`(2x+1, 2y)`, `(2x, 2y+1)`, `(2x+1, 2y+1)`. -/
def PixelBuffer.partialSum (b : PixelBuffer 16) (x y : Nat) (c : Fin 3) : Nat → Nat
  | 0 => 0
  | k + 1 => b.partialSum x y c k + (b.sample (2 * x + k % 2) (2 * y + k / 2) c).toNat

/-- DST holds the transform's output pixel for output coordinate `(x, y)` (R32, R109). -/
def State.HoldsOutput (s : State) (x y : Nat) : Prop :=
  ∃ v, s.dst.read (y * s.regs.outWidth.toNat + x) = some v ∧
    ∀ c, chan8 v c = (transform s.sourceBuffer).sample x y c

/-- The data of a run in progress: the accumulators hold the sums of the block read so far (R108), and every location
"with index below `Y * OW + X` already holds its final value" (R42 (c)). -/
structure State.DataOk (s : State) : Prop where
  /-- The accumulators (R108). -/
  acc : ∀ c, (s.regs.acc.get c).toNat =
    s.sourceBuffer.partialSum s.regs.x.toNat s.regs.y.toNat c s.regs.k.toNat
  /-- The output so far (R42). -/
  out : ∀ x y, x < s.regs.outWidth.toNat → y < s.regs.outHeight.toNat →
    y * s.regs.outWidth.toNat + x < s.regs.y.toNat * s.regs.outWidth.toNat + s.regs.x.toNat → s.HoldsOutput x y

/-- The whole output buffer is in DST (R109). -/
def State.HoldsResult (s : State) : Prop :=
  ∀ x y, x < s.regs.outWidth.toNat → y < s.regs.outHeight.toNat → s.HoldsOutput x y

/-- The outside action writes neither of the first `n` source pixels nor of the first `m` output pixels. -/
def HostAction.KeepsBuffers (n m : Nat) : HostAction → Prop
  | .writeSrc a _ => n ≤ a.toNat
  | .writeDst a _ => m ≤ a.toNat
  | _ => True

/-- The host's duties during a run (R166, R167): it writes no source pixel and no output pixel of the run. -/
def HostAction.KeepsDuties (s : State) (a : HostAction) : Prop :=
  a.KeepsBuffers (s.regs.width.toNat * s.regs.height.toNat) (s.regs.outWidth.toNat * s.regs.outHeight.toNat)

/-- The next action from outside, if there is one, keeps the duties. -/
def State.DutiesKept (s : State) : Prop := ∀ a l, s.inputs = a :: l → a.KeepsDuties s

/-- Core steps until DONE (R110): five for each output pixel not yet written, less those of the current block already
taken; none outside a run. -/
def Regs.stepsLeft (r : Regs) : Nat :=
  if r.state = .busy then
    5 * (r.outWidth.toNat * r.outHeight.toNat - (r.y.toNat * r.outWidth.toNat + r.x.toNat)) - r.k.toNat
  else 0

/-! ### Machines with accumulators of other widths (R5, R16) -/

/-- Two states that differ in nothing but the width of the accumulators: the same registers, the same numbers in ACC, the
same memories, actions to come and replies. -/
structure State.AgreesWith {a b dimw aw : Nat} (s : State a dimw aw) (t : State b dimw aw) : Prop where
  /-- All but ACC is the same. -/
  same : t = { s with regs := { s.regs with acc := t.regs.acc } }
  /-- ACC holds the same numbers. -/
  acc : ∀ c, (t.regs.acc.get c).toNat = (s.regs.acc.get c).toNat

/-- The bounds of R108 that keep an accumulator of 18 bits or more from wrapping. -/
def Regs.AccOk {accw dimw : Nat} (r : Regs accw dimw) : Prop :=
  r.state = .busy → r.k.toNat ≤ 4 ∧ ∀ c, (r.acc.get c).toNat ≤ r.k.toNat * 65535

end Sys2Proof.Machine
end

