-- ==== Sys2Proof/Certificates/Slice0/Obligations.lean ====
section
/-! DEFINITION. The statements for the provers. Each docstring names the rule of spec/ it rests on. -/

open Sys2Proof Sys2Proof.Machine

/-! ### Encoding -/

/-- Words written out from R51, R54 and R57 decode to the operations they stand for (section 2.6 of
95_test_vectors.md gives most of them). -/
def Obligations.WordsDecodeAsTheSpecWritesThem : Prop :=
  decode (.txn 0x00400000000#41) = .rdStatus ∧ decode (.txn 0x004DEADBEEF#41) = .rdStatus ∧
  decode (.txn 0x10800012345#41) = .wrWidth 0x00012345 ∧ decode (.txn 0x110FFFFF0F3#41) = .wrFormat 0xFFFFF0F3 ∧
  decode (.txn 0x100FFFFFFFF#41) = .wrCtrlStart 0xFFFFFFFF ∧ decode (.txn 0x100FFFFFFFE#41) = .wrCtrlNop 0xFFFFFFFE ∧
  decode (.txn 0x00500000000#41) = .rdReserved 0x05 ∧ decode (.txn 0x109FFFFFFFF#41) = .wrReserved 0x09 0xFFFFFFFF ∧
  decode (.uop 1) = .acc 1 0 ∧ decode (.uop 2) = .acc 0 1 ∧ decode (.uop 4) = .emit ∧
  decode (.uop 7) = .reservedSel7

/-- Decoding the encoding of a well-formed operation gives the operation back, every operand at every value. -/
def Obligations.DecodeOfEncodeIsTheInstruction : Prop :=
  ∀ i : Instr, i.wf = true → decode (encode i) = i

/-- Every word of either format decodes to a well-formed operation: "No encoding is illegal" (R59). -/
def Obligations.EveryEncodingDecodesWellFormed : Prop :=
  ∀ e : Encoded, (decode e).wf = true

/-- Two transaction words decode to the same operation only when they are the same word, or two reads of one offset:
nothing but a read's data is lost in decoding (R52). No two selectors decode to one operation (R57). -/
def Obligations.DecodingLosesOnlyTheDataOfReads : Prop :=
  (∀ t u : TxnWord, decodeTxn t = decodeTxn u ↔
    t = u ∨ (t.getLsbD 40 = false ∧ u.getLsbD 40 = false ∧ t.extractLsb' 32 8 = u.extractLsb' 32 8)) ∧
  (∀ j k : Selector, decodeSelector j = decodeSelector k → j = k)

/-- The masks and matches of R52 and R53: a word that meets a row's mask and match decodes to the row's operation
with the word's data. -/
def Obligations.HostWordsDecodeByMaskAndMatch : Prop :=
  ∀ t : TxnWord,
    (t &&& 0x1FF00000000#41 = 0x00000000000#41 → decodeTxn t = .rdCtrl) ∧
    (t &&& 0x1FF00000000#41 = 0x00400000000#41 → decodeTxn t = .rdStatus) ∧
    (t &&& 0x1FF00000000#41 = 0x00800000000#41 → decodeTxn t = .rdWidth) ∧
    (t &&& 0x1FF00000000#41 = 0x00C00000000#41 → decodeTxn t = .rdHeight) ∧
    (t &&& 0x1FF00000000#41 = 0x01000000000#41 → decodeTxn t = .rdFormat) ∧
    (t &&& 0x1FF00000000#41 = 0x01400000000#41 → decodeTxn t = .rdOutWidth) ∧
    (t &&& 0x1FF00000000#41 = 0x01800000000#41 → decodeTxn t = .rdOutHeight) ∧
    (t &&& 0x1FF00000001#41 = 0x10000000001#41 → decodeTxn t = .wrCtrlStart (t.extractLsb' 0 32)) ∧
    (t &&& 0x1FF00000001#41 = 0x10000000000#41 → decodeTxn t = .wrCtrlNop (t.extractLsb' 0 32)) ∧
    (t &&& 0x1FF00000000#41 = 0x10800000000#41 → decodeTxn t = .wrWidth (t.extractLsb' 0 32)) ∧
    (t &&& 0x1FF00000000#41 = 0x10C00000000#41 → decodeTxn t = .wrHeight (t.extractLsb' 0 32)) ∧
    (t &&& 0x1FF00000000#41 = 0x11000000000#41 → decodeTxn t = .wrFormat (t.extractLsb' 0 32)) ∧
    (t &&& 0x1FF00000000#41 = 0x10400000000#41 → decodeTxn t = .wrStatus (t.extractLsb' 0 32)) ∧
    (t &&& 0x1FF00000000#41 = 0x11400000000#41 → decodeTxn t = .wrOutWidth (t.extractLsb' 0 32)) ∧
    (t &&& 0x1FF00000000#41 = 0x11800000000#41 → decodeTxn t = .wrOutHeight (t.extractLsb' 0 32)) ∧
    (isReservedOffset (t.extractLsb' 32 8) = true →
      (t &&& 0x10000000000#41 = 0x00000000000#41 → decodeTxn t = .rdReserved (t.extractLsb' 32 8)) ∧
      (t &&& 0x10000000000#41 = 0x10000000000#41 →
        decodeTxn t = .wrReserved (t.extractLsb' 32 8) (t.extractLsb' 0 32)))

/-- The text forms of R61: the word of each line, as the formula of the table, and what it decodes to, each of the
seven register names apart; and every pseudo-operation of R62, with every operand, as the transactions of its
expansion. `wait` polls STATUS until `waitOver` of what the read returns. -/
def Obligations.TextLinesAssembleToTheirOperations : Prop :=
  (∀ off : Offset, ((Line.rdAt off).assemble).toNat = off.toNat * 2 ^ 32 ∧
    decodeTxn (Line.rdAt off).assemble = decodeRead off) ∧
  (∀ (off : Offset) (v : HostWord),
    ((Line.wrAt off v).assemble).toNat = 2 ^ 40 + off.toNat * 2 ^ 32 + v.toNat ∧
    decodeTxn (Line.wrAt off v).assemble = decodeWrite off v) ∧
  (∀ reg : RegName, (Line.rd reg).assemble = (Line.rdAt reg.offset).assemble) ∧
  (∀ (reg : RegName) (v : HostWord), (Line.wr reg v).assemble = (Line.wrAt reg.offset v).assemble) ∧
  (∀ reg : RegName, decodeTxn (Line.rd reg).assemble =
    match reg with
    | .ctrl => .rdCtrl
    | .status => .rdStatus
    | .width => .rdWidth
    | .height => .rdHeight
    | .format => .rdFormat
    | .outWidth => .rdOutWidth
    | .outHeight => .rdOutHeight) ∧
  (∀ (reg : RegName) (v : HostWord), decodeTxn (Line.wr reg v).assemble =
    match reg with
    | .ctrl => if v.getLsbD 0 = true then .wrCtrlStart v else .wrCtrlNop v
    | .status => .wrStatus v
    | .width => .wrWidth v
    | .height => .wrHeight v
    | .format => .wrFormat v
    | .outWidth => .wrOutWidth v
    | .outHeight => .wrOutHeight v) ∧
  Pseudo.start.actions = [.txn 0x10000000001#41] ∧
  (∀ w h : HostWord, (Pseudo.setdim w h).actions =
    [.txn (0x10800000000#41 ||| w.setWidth 41), .txn (0x10C00000000#41 ||| h.setWidth 41)]) ∧
  (∀ ch depth : HostWord, (Pseudo.setfmt ch depth).actions =
    [.txn (0x11000000000#41 ||| ((depth <<< 8) ||| ch).setWidth 41)]) ∧
  (Pseudo.setfmt 3 16).actions = [.txn 0x11000001003#41] ∧
  Pseudo.wait.actions = [.txn 0x00400000000#41] ∧
  (∀ rdata : HostWord, waitOver rdata = true ↔ rdata.toNat % 4 = 2 ∨ rdata.toNat % 4 = 3) ∧
  Pseudo.getdim.actions = [.txn 0x01400000000#41, .txn 0x01800000000#41]

/-! ### One step -/

/-- A host transaction is executed, as decoded, in the state without it among the actions to come. -/
def Obligations.StepRunsTheHostTransaction : Prop :=
  ∀ (s : State) (t : TxnWord) (l : List HostAction), s.inputs = .txn t :: l →
    step s = exec (decodeTxn t) { s with inputs := l }

/-- While BUSY, when the core has the turn, its step is the micro-operation that K selects, and nothing else: ACC with
`dx = K[0]` and `dy = K[1]` for K = 0 to 3, EMIT for 4, and the reserved rows for 5, 6 and 7 (R57, R100, R101). The core
has the turn when it is given one or when nothing else is to come (the model's choice, log entry 1). -/
def Obligations.StepRunsTheSelectedMicroOperation : Prop :=
  ∀ s u : State, s.regs.state = .busy →
    (s.inputs = [] ∧ u = s) ∨ (∃ l, s.inputs = .coreTurn :: l ∧ u = { s with inputs := l }) →
    step s = exec (decodeSelector s.regs.k) u ∧
    (s.regs.k.toNat ≤ 3 → ∃ dx dy : BitVec 1, dx.toNat = s.regs.k.toNat % 2 ∧ dy.toNat = s.regs.k.toNat / 2 ∧
      step s = exec (.acc dx dy) u) ∧
    (s.regs.k = 4 → step s = exec .emit u) ∧
    (s.regs.k = 5 → step s = exec .reservedSel5 u) ∧ (s.regs.k = 6 → step s = exec .reservedSel6 u) ∧
    (s.regs.k = 7 → step s = exec .reservedSel7 u)

/-- A word placed for the next step is the one the next step runs (log entry 6). -/
def Obligations.PlacedWordIsTheNextInstruction : Prop :=
  ∀ s : State,
    (∀ w : Nat, w < 2 ^ 41 → step (s.withFetchWord 48 w) = exec (decodeTxn (BitVec.ofNat 41 w)) s) ∧
    (∀ w : Nat, w < 2 ^ 3 → step (s.withFetchWord 8 w) =
      exec (decodeSelector (BitVec.ofNat 3 w))
        { s with regs := { s.regs with state := .busy, k := BitVec.ofNat 3 w } })

/-- R100: outside BUSY the core does nothing, however often it has the turn; while BUSY, with a phase of the legal
range, its step changes the registers; and no host transaction and no pixel access of the host ends, pauses or
disturbs a run: the registers stay as they are, and the state stays BUSY. Three clauses rest on choices of the model:
what the outside does next stands in a list, and the core has every turn when it is empty (log entry 1); a core that is
not BUSY answers a next state, the same one, on its turn (log entry 17); the host's pixel accesses are outside actions
too, in any STATE (log entry 13). -/
def Obligations.CoreStepsExactlyWhenBusy : Prop :=
  (∀ s : State, s.regs.state ≠ .busy → s.inputs = [] → ∀ n, Host.Core.run Sys2Proof.core n s = .next s) ∧
  (∀ (s : State) (l : List HostAction), s.regs.state ≠ .busy → s.inputs = .coreTurn :: l →
    step s = .next { s with inputs := l }) ∧
  (∀ s : State, s.regs.state = .busy → s.regs.k.toNat ≤ 4 → s.inputs = [] →
    ∃ t, step s = .next t ∧ t.regs ≠ s.regs) ∧
  (∀ (s : State) (a : HostAction) (l : List HostAction), s.regs.state = .busy → s.inputs = a :: l →
    a ≠ .coreTurn → a ≠ .reset → ∃ t, step s = .next t ∧ t.regs = s.regs ∧ t.inputs = l)

/-- The host's own accesses to the pixel memories (R41): what a pixel write leaves in every location of both memories,
and what a pixel read returns. That they are outside actions, at any index and in any STATE, is the model's choice (log
entry 13). -/
def Obligations.HostPixelAccessesReadAndWrite : Prop :=
  ∀ (s : State) (l : List HostAction),
    (∀ a p, s.inputs = .writeSrc a p :: l → ∃ t, step s = .next t ∧
      t.srcRead a = p ∧ (∀ b, b ≠ a → t.srcRead b = s.srcRead b) ∧
      t = { s with inputs := l, src := t.src }) ∧
    (∀ a v, s.inputs = .writeDst a v :: l → ∃ t, step s = .next t ∧
      t.dstRead a = v ∧ (∀ b, b ≠ a → t.dstRead b = s.dstRead b) ∧
      t = { s with inputs := l, dst := t.dst }) ∧
    (∀ a, s.inputs = .readSrc a :: l →
      step s = .next { s with inputs := l, replies := .srcPixel (s.srcRead a) :: s.replies }) ∧
    (∀ a, s.inputs = .readDst a :: l →
      step s = .next { s with inputs := l, replies := .dstPixel (s.dstRead a) :: s.replies })

/-! ### Reset -/

/-- What power-up and reset leave (R10, R29): the registers, what the host reads of them, and nothing written in SRC
and DST. -/
def Obligations.ResetLeavesTheSpecifiedValues : Prop :=
  State.reset.regs = ⟨.idle, .none, 0, 0, 3, 16, 0, 0, 0, 0, 0, ⟨0, 0, 0⟩⟩ ∧
  (∀ a, State.reset.src.read a = none) ∧ (∀ a, State.reset.dst.read a = none) ∧
  exec .rdStatus State.reset = .next { State.reset with replies := [.rdata 0x00000000] } ∧
  exec .rdFormat State.reset = .next { State.reset with replies := [.rdata 0x00001003] }

/-- R160: the reset input, in any state, gives every register its reset value and does nothing else. -/
def Obligations.ResetInputSetsEveryRegister : Prop :=
  ∀ (s : State) (l : List HostAction), s.inputs = .reset :: l →
    step s = .next { s with
      inputs := l
      regs := { state := .idle, err := .none, width := 0, height := 0, channels := 3, depth := 16, outWidth := 0,
                outHeight := 0, y := 0, x := 0, k := 0, acc := ⟨0, 0, 0⟩ } }

/-! ### Register reads -/

/-- R122 and the four dimension reads (R128, R130, R134, R135): the value returned, with its 41-bit word; nothing else
changes, in any STATE. CTRL reads 0, and whether a run is in progress is read from STATUS. What OUT_WIDTH and OUT_HEIGHT
return is 0 after reset and after a START that ends in ERROR, the halves after any other accepted START, and no other
operation, and no START while BUSY, changes it. -/
def Obligations.CtrlAndDimensionReadsReturnTheirValue : Prop :=
  (decodeTxn 0x00000000000#41 = .rdCtrl ∧ decodeTxn 0x00800000000#41 = .rdWidth ∧ decodeTxn 0x00C00000000#41 = .rdHeight ∧
    decodeTxn 0x01400000000#41 = .rdOutWidth ∧ decodeTxn 0x01800000000#41 = .rdOutHeight) ∧
  (∀ s : State, exec .rdCtrl s = .next { s with replies := .rdata 0 :: s.replies }) ∧
  (∀ s : State, ∃ v, exec .rdStatus s = .next { s with replies := .rdata v :: s.replies } ∧
    (v.toNat % 4 = 1 ↔ s.regs.state = .busy)) ∧
  (∀ s : State, ∃ v, v.toNat = s.regs.width.toNat ∧
    exec .rdWidth s = .next { s with replies := .rdata v :: s.replies }) ∧
  (∀ s : State, ∃ v, v.toNat = s.regs.height.toNat ∧
    exec .rdHeight s = .next { s with replies := .rdata v :: s.replies }) ∧
  (∀ s : State, ∃ v, v.toNat = s.regs.outWidth.toNat ∧
    exec .rdOutWidth s = .next { s with replies := .rdata v :: s.replies }) ∧
  (∀ s : State, ∃ v, v.toNat = s.regs.outHeight.toNat ∧
    exec .rdOutHeight s = .next { s with replies := .rdata v :: s.replies }) ∧
  (∀ s : State, s.regs.state ≠ .busy → ∃ t, exec (.wrWidth 0x12345) s = .next t ∧
    exec .rdWidth t = .next { t with replies := .rdata 0x00002345 :: t.replies }) ∧
  (State.reset.regs.width = 0 ∧ State.reset.regs.height = 0 ∧ State.reset.regs.outWidth = 0 ∧
    State.reset.regs.outHeight = 0) ∧
  (∀ (v : HostWord) (s : State), s.regs.state ≠ .busy → ∃ t, exec (.wrCtrlStart v) s = .next t ∧
    (t.regs.state = .error → t.regs.outWidth = 0 ∧ t.regs.outHeight = 0) ∧
    (t.regs.state ≠ .error → t.regs.outWidth.toNat = s.regs.width.toNat / 2 ∧
      t.regs.outHeight.toNat = s.regs.height.toNat / 2)) ∧
  (∀ (i : Instr) (s t : State), exec i s = .next t → (∀ v, i ≠ .wrCtrlStart v) ∨ s.regs.state = .busy →
    t.regs.outWidth = s.regs.outWidth ∧ t.regs.outHeight = s.regs.outHeight)

/-- R123: STATUS reads as ERR times 16 plus STATE, with the numbers of R11 and R12, and changes nothing; and in every
state of the invariant its value is one of the five of the rule. -/
def Obligations.StatusReadReturnsErrAndState : Prop :=
  decodeTxn 0x00400000000#41 = .rdStatus ∧
  (∀ s : State, ∃ v,
    v.toNat = (match s.regs.err with
        | .none => 0
        | .invalidDimensions => 1
        | .channelCountMismatch => 2
        | .unsupportedBitDepth => 3) * 16
      + (match s.regs.state with
        | .idle => 0
        | .busy => 1
        | .done => 2
        | .error => 3) ∧
    exec .rdStatus s = .next { s with replies := .rdata v :: s.replies } ∧
    (s.Inv → v = 0x00000000 ∨ v = 0x00000001 ∨ v = 0x00000002 ∨ v = 0x00000023 ∨ v = 0x00000033))

/-- R132: FORMAT reads as DEPTH times 256 plus CHANNELS and changes nothing; after reset it is 0x00001003. -/
def Obligations.FormatReadPlacesDepthAndChannels : Prop :=
  decodeTxn 0x01000000000#41 = .rdFormat ∧
  (∀ s : State, ∃ v, v.toNat = s.regs.depth.toNat * 256 + s.regs.channels.toNat ∧
    exec .rdFormat s = .next { s with replies := .rdata v :: s.replies } ∧
    (s.regs = Regs.reset → v = 0x00001003))

/-- R124: a reserved offset, one of 249, reads 0 and ignores writes, in any STATE, with no error. -/
def Obligations.ReservedOffsetsReadZeroAndIgnoreWrites : Prop :=
  (∀ off : Offset, isReservedOffset off = true ↔ off.toNat ∉ [0x00, 0x04, 0x08, 0x0C, 0x10, 0x14, 0x18]) ∧
  (∀ off : Offset, off.toNat % 4 ≠ 0 → isReservedOffset off = true) ∧
  (∀ (off : Offset) (v : HostWord), isReservedOffset off = true →
    decodeTxn (readWord off) = .rdReserved off ∧ decodeTxn (writeWord off v) = .wrReserved off v) ∧
  (∀ (off : Offset) (s : State),
    exec (.rdReserved off) s = .next { s with replies := .rdata 0 :: s.replies }) ∧
  (∀ (off : Offset) (v : HostWord) (s : State), exec (.wrReserved off v) s = .next s)

/-- "A read changes no state" (R120), whatever the offset, the data and the STATE, and what it returns is a function of
the host-visible registers alone: Y, X, K and ACC "are not host-readable" (R28). -/
def Obligations.ReadsShowOnlyHostVisibleRegisters : Prop :=
  ∀ t : TxnWord, t.getLsbD 40 = false → ∀ s u : State,
    s.regs.state = u.regs.state → s.regs.err = u.regs.err → s.regs.width = u.regs.width →
    s.regs.height = u.regs.height → s.regs.channels = u.regs.channels → s.regs.depth = u.regs.depth →
    s.regs.outWidth = u.regs.outWidth → s.regs.outHeight = u.regs.outHeight →
    ∃ v, exec (decodeTxn t) s = .next { s with replies := .rdata v :: s.replies } ∧
      exec (decodeTxn t) u = .next { u with replies := .rdata v :: u.replies }

/-! ### Register writes -/

/-- R129 and R131: `wr WIDTH` and `wr HEIGHT` outside a run store the low 16 bits of the data, with no check, and
change nothing else. -/
def Obligations.DimensionWritesStoreSixteenBits : Prop :=
  (∀ v : HostWord, decodeTxn (0x10800000000#41 ||| v.setWidth 41) = .wrWidth v ∧
    decodeTxn (0x10C00000000#41 ||| v.setWidth 41) = .wrHeight v) ∧
  (∀ (v : HostWord) (s : State), s.regs.state ≠ .busy →
    (∃ w : Dim, w.toNat = v.toNat % 65536 ∧
      exec (.wrWidth v) s = .next { s with regs := { s.regs with width := w } }) ∧
    (∃ h : Dim, h.toNat = v.toNat % 65536 ∧
      exec (.wrHeight v) s = .next { s with regs := { s.regs with height := h } })) ∧
  (∀ (v : HostWord) (s : State), s.regs.state = .busy →
    exec (.wrWidth v) s = .next s ∧ exec (.wrHeight v) s = .next s)

/-- R133: `wr FORMAT` outside a run stores bits 3 to 0 in CHANNELS and bits 12 to 8 in DEPTH, any value, and changes
nothing else; while BUSY it is dropped. A value other than 3 and 16 is no error now; it makes the next START end in
ERROR. -/
def Obligations.FormatWriteStoresItsTwoFields : Prop :=
  (∀ v : HostWord, decodeTxn (0x11000000000#41 ||| v.setWidth 41) = .wrFormat v) ∧
  (∀ (v : HostWord) (s : State), s.regs.state ≠ .busy →
    ∃ (c : BitVec 4) (d : BitVec 5), c.toNat = v.toNat % 16 ∧ d.toNat = v.toNat / 256 % 32 ∧
      exec (.wrFormat v) s = .next { s with regs := { s.regs with channels := c, depth := d } }) ∧
  (∀ (v : HostWord) (s : State), s.regs.state = .busy → exec (.wrFormat v) s = .next s) ∧
  (∀ (v : HostWord) (s : State), s.regs.state ≠ .busy → v.toNat % 16 ≠ 3 ∨ v.toNat / 256 % 32 ≠ 16 →
    ∃ t u, exec (.wrFormat v) s = .next t ∧ t.regs.state = s.regs.state ∧ t.regs.err = s.regs.err ∧
      exec (.wrCtrlStart 1) t = .next u ∧ u.regs.state = .error)

/-- R125: while BUSY the three configuration writes write nothing, and WIDTH, HEIGHT and FORMAT are constant until the
run ends: no step but a reset changes them. -/
def Obligations.ConfigurationIsConstantDuringARun : Prop :=
  (∀ (v : HostWord) (s : State), s.regs.state = .busy →
    exec (.wrWidth v) s = .next s ∧ exec (.wrHeight v) s = .next s ∧ exec (.wrFormat v) s = .next s) ∧
  (∀ s t : State, s.regs.state = .busy → (∀ l, s.inputs ≠ .reset :: l) → step s = .next t →
    t.regs.width = s.regs.width ∧ t.regs.height = s.regs.height ∧ t.regs.channels = s.regs.channels ∧
    t.regs.depth = s.regs.depth)

/-- R126 and R136: a write of CTRL with bit 0 clear, and a write of a read-only register, write no state, in any STATE,
for any data. -/
def Obligations.CtrlNopAndReadOnlyWritesDoNothing : Prop :=
  decodeTxn 0x10000000000#41 = .wrCtrlNop 0 ∧
  (∀ v : HostWord, decodeTxn (0x10400000000#41 ||| v.setWidth 41) = .wrStatus v ∧
    decodeTxn (0x11400000000#41 ||| v.setWidth 41) = .wrOutWidth v ∧
    decodeTxn (0x11800000000#41 ||| v.setWidth 41) = .wrOutHeight v) ∧
  (∀ (v : HostWord) (s : State),
    (v.getLsbD 0 = false → decodeTxn (0x10000000000#41 ||| v.setWidth 41) = .wrCtrlNop v ∧
      exec (.wrCtrlNop v) s = .next s) ∧
    exec (.wrStatus v) s = .next s ∧ exec (.wrOutWidth v) s = .next s ∧ exec (.wrOutHeight v) s = .next s)

/-- R137: START while BUSY writes no state. -/
def Obligations.StartWhileBusyIsIgnored : Prop :=
  ∀ (v : HostWord) (s : State), v.getLsbD 0 = true → s.regs.state = .busy → exec (.wrCtrlStart v) s = .next s

/-- No host transaction of any kind disturbs a run: it completes, and no register, no pixel of either memory and no
later action is changed. -/
def Obligations.HostTransactionsDoNotDisturbARun : Prop :=
  ∀ (t : TxnWord) (s : State), s.regs.state = .busy →
    ∃ l, exec (decodeTxn t) s = .next { s with replies := l } ∧ s.replies <:+ l ∧ l.length ≤ s.replies.length + 1

/-! ### START and error entry -/

/-- R127: START in IDLE, DONE or ERROR, with its three branches and everything each writes; nothing else changes. The
halves are written as numbers. -/
def Obligations.StartRunsChecksThenBegins : Prop :=
  decodeTxn 0x10000000001#41 = .wrCtrlStart 1 ∧
  (∀ (v : HostWord) (s : State), v.getLsbD 0 = true → s.regs.state ≠ .busy →
    (s.regs.channels ≠ 3 → exec (.wrCtrlStart v) s = .next { s with regs := { s.regs with
      state := .error, err := .channelCountMismatch, outWidth := 0, outHeight := 0, y := 0, x := 0, k := 0,
      acc := ⟨0, 0, 0⟩ } }) ∧
    (s.regs.channels = 3 → s.regs.depth ≠ 16 → exec (.wrCtrlStart v) s = .next { s with regs := { s.regs with
      state := .error, err := .unsupportedBitDepth, outWidth := 0, outHeight := 0, y := 0, x := 0, k := 0,
      acc := ⟨0, 0, 0⟩ } }) ∧
    (s.regs.channels = 3 → s.regs.depth = 16 → ∃ ow oh : Dim,
      ow.toNat = s.regs.width.toNat / 2 ∧ oh.toNat = s.regs.height.toNat / 2 ∧
      exec (.wrCtrlStart v) s = .next { s with regs := { s.regs with
        state := if ow = 0 ∨ oh = 0 then .done else .busy, err := .none, outWidth := ow, outHeight := oh,
        y := 0, x := 0, k := 0, acc := ⟨0, 0, 0⟩ } }))

/-- R142, R143 and R146: which error START raises, as equivalences, with the channel count first. -/
def Obligations.StartRaisesExactlyTheDeclaredFormatErrors : Prop :=
  ∀ (v : HostWord) (s : State), v.getLsbD 0 = true → s.regs.state ≠ .busy →
    ∃ t, exec (.wrCtrlStart v) s = .next t ∧
      (t.regs.err = .channelCountMismatch ↔ s.regs.channels.toNat ≠ 3) ∧
      (t.regs.err = .unsupportedBitDepth ↔ s.regs.channels.toNat = 3 ∧ s.regs.depth.toNat ≠ 16) ∧
      (t.regs.state = .error ↔ s.regs.channels.toNat ≠ 3 ∨ s.regs.depth.toNat ≠ 16) ∧
      t.regs.channels = s.regs.channels ∧ t.regs.depth = s.regs.depth ∧ t.src = s.src ∧ t.dst = s.dst

/-- R140: START is the only operation that raises an error: any other operation, and START while BUSY, leaves ERR, and
takes no state to ERROR. -/
def Obligations.OnlyStartRaisesAnError : Prop :=
  ∀ (i : Instr) (s t : State), exec i s = .next t → (∀ v, i ≠ .wrCtrlStart v) ∨ s.regs.state = .busy →
    t.regs.err = s.regs.err ∧ (t.regs.state = .error → s.regs.state = .error)

/-- R141: a START of a buffer with fewer than two columns or rows is no error: it ends in DONE with the floor halves,
at least one of them 0, and no memory access; and no operation writes code 1. -/
def Obligations.SmallDimensionsEndInDone : Prop :=
  (∀ (v : HostWord) (s : State), v.getLsbD 0 = true → s.regs.state ≠ .busy → s.regs.channels = 3 →
    s.regs.depth = 16 → s.regs.width.toNat < 2 ∨ s.regs.height.toNat < 2 →
    ∃ t, exec (.wrCtrlStart v) s = .next t ∧ t.regs.state = .done ∧ t.regs.err = .none ∧
      t.regs.outWidth.toNat = s.regs.width.toNat / 2 ∧ t.regs.outHeight.toNat = s.regs.height.toNat / 2 ∧
      (t.regs.outWidth = 0 ∨ t.regs.outHeight = 0) ∧ t.src = s.src ∧ t.dst = s.dst) ∧
  (∀ (i : Instr) (s t : State), exec i s = .next t → t.regs.err = .invalidDimensions → s.regs.err = .invalidDimensions)

/-- Runs do not leak into each other (R172): what START leaves in the registers depends on the configuration registers
alone, not on the earlier outcome, scan position or accumulators. -/
def Obligations.StartForgetsTheEarlierRun : Prop :=
  ∀ (v : HostWord) (s u t w : State), s.regs.state ≠ .busy → u.regs.state ≠ .busy →
    s.regs.width = u.regs.width → s.regs.height = u.regs.height → s.regs.channels = u.regs.channels →
    s.regs.depth = u.regs.depth → exec (.wrCtrlStart v) s = .next t → exec (.wrCtrlStart v) u = .next w →
    t.regs = w.regs

/-- OUT_WIDTH and OUT_HEIGHT "are written only by START" and by reset (R17, R18, R45): every other step of the machine
leaves them. -/
def Obligations.OutputDimensionsChangeOnlyAtStartOrReset : Prop :=
  ∀ s t : State, step s = .next t → (∀ l, s.inputs ≠ .reset :: l) →
    (∀ w v l, s.inputs = .txn w :: l → decodeTxn w ≠ .wrCtrlStart v) →
    t.regs.outWidth = s.regs.outWidth ∧ t.regs.outHeight = s.regs.outHeight

/-! ### Micro-operations -/

/-- R91 and R103: an ACC step adds, in each lane apart, the sample of the pixel at the effective address, modulo 2^32,
moves the phase on, and changes nothing else; it completes under any operand and memory content. In a state that no run
reaches, the effective address and the phase may wrap; R102 says that the address never does, so the wrapped values are
the model's choice (log entries 12 and 7). -/
def Obligations.AccAddsOnePixel : Prop :=
  ∀ (dx dy : BitVec 1) (s : State), ∃ a : Index, ∃ t,
    a.toNat = ((2 * s.regs.y.toNat + dy.toNat) * s.regs.width.toNat + (2 * s.regs.x.toNat + dx.toNat)) % 2 ^ 32 ∧
    exec (.acc dx dy) s = .next t ∧
    (∀ c, (t.regs.acc.get c).toNat = ((s.regs.acc.get c).toNat + (chan16 (s.srcRead a) c).toNat) % 2 ^ 32) ∧
    t.regs.k.toNat = (s.regs.k.toNat + 1) % 8 ∧
    t = { s with regs := { s.regs with acc := t.regs.acc, k := t.regs.k } }

/-- R92: EMIT writes, at the effective address, the pixel whose sample of each channel is the sum divided by 256 with
the fraction discarded, at most 255; every other location of DST, all of SRC and every register but the accumulators
and the scan stays as it is (but for STATE at the end of a run, R104). In a state that no run reaches the effective
address may wrap modulo 2^32, which is the model's choice (log entry 12). -/
def Obligations.EmitWritesTheConvertedPixel : Prop :=
  ∀ s : State, ∃ (a : Index) (v : DstPixel), ∃ t,
    a.toNat = (s.regs.y.toNat * s.regs.outWidth.toNat + s.regs.x.toNat) % 2 ^ 32 ∧
    (∀ c, (chan8 v c).toNat = min ((s.regs.acc.get c).toNat / 256) 255) ∧
    exec .emit s = .next t ∧
    t.dst.read a.toNat = some v ∧ (∀ b, b ≠ a.toNat → t.dst.read b = s.dst.read b) ∧
    t = { s with
      dst := t.dst
      regs := { s.regs with
        acc := ⟨0, 0, 0⟩, k := t.regs.k, x := t.regs.x, y := t.regs.y, state := t.regs.state } }

/-- R104: the advance of an EMIT step of a BUSY core: next column, first column of the next row, or the end of the run,
decided by the two bounds; ERR stays as it is. -/
def Obligations.EmitAdvancesTheScan : Prop :=
  ∀ s : State, s.regs.state = .busy → s.regs.k = 4 → ∃ t, exec .emit s = .next t ∧ t.regs.k = 0 ∧
    t.regs.err = s.regs.err ∧
    (s.regs.x.toNat + 1 < s.regs.outWidth.toNat →
      t.regs.x.toNat = s.regs.x.toNat + 1 ∧ t.regs.y = s.regs.y ∧ t.regs.state = .busy) ∧
    (s.regs.outWidth.toNat ≤ s.regs.x.toNat + 1 → s.regs.y.toNat + 1 < s.regs.outHeight.toNat →
      t.regs.x = 0 ∧ t.regs.y.toNat = s.regs.y.toNat + 1 ∧ t.regs.state = .busy) ∧
    (s.regs.outWidth.toNat ≤ s.regs.x.toNat + 1 → s.regs.outHeight.toNat ≤ s.regs.y.toNat + 1 →
      t.regs.x = 0 ∧ t.regs.y = 0 ∧ t.regs.state = .done)

/-- R102: in every BUSY state of the invariant the effective addresses are the exact numbers, with no wrap, and lie
inside the buffers. -/
def Obligations.EffectiveAddressesStayInTheBuffers : Prop :=
  ∀ s : State, s.Inv → s.regs.state = .busy →
    (∀ dx dy : BitVec 1, (s.regs.srcIndex dx dy).toNat =
        (2 * s.regs.y.toNat + dy.toNat) * s.regs.width.toNat + (2 * s.regs.x.toNat + dx.toNat) ∧
      2 * s.regs.x.toNat + dx.toNat < s.regs.width.toNat ∧ 2 * s.regs.y.toNat + dy.toNat < s.regs.height.toNat ∧
      (s.regs.srcIndex dx dy).toNat < s.regs.height.toNat * s.regs.width.toNat) ∧
    s.regs.dstIndex.toNat = s.regs.y.toNat * s.regs.outWidth.toNat + s.regs.x.toNat ∧
    s.regs.dstIndex.toNat < s.regs.outHeight.toNat * s.regs.outWidth.toNat ∧ s.regs.dstIndex.toNat < 2 ^ 30

/-- R93: the conversion in bits; `S[17:2]` is the truncated mean, and `S[7:0]` never influences the output. -/
def Obligations.ConversionInBits : Prop :=
  ∀ a : Acc,
    (a.extractLsb' 16 16 ≠ 0 → emitLane a = 0xFF) ∧
    (a.extractLsb' 16 16 = 0 → emitLane a = a.extractLsb' 8 8) ∧
    (a.toNat ≤ 0x3FFFC → (a.extractLsb' 16 16 ≠ 0 ↔ a.extractLsb' 16 2 ≠ 0) ∧
      (a.extractLsb' 2 16).toNat = a.toNat / 4) ∧
    (∀ b : Acc, a.extractLsb' 8 24 = b.extractLsb' 8 24 → emitLane a = emitLane b)

/-- The accumulator width does not matter from 18 bits on (R5, R16): four samples added to a cleared accumulator of any
such width never wrap, and give the output sample of the core's 32 bits. -/
def Obligations.AccumulatorWidthDoesNotMatter : Prop :=
  ∀ (n : Nat) (a b c d : Sample16), 18 ≤ n →
    (accLane (accLane (accLane (accLane (0 : BitVec n) a) b) c) d).toNat =
      a.toNat + b.toNat + c.toNat + d.toNat ∧
    emitLane (accLane (accLane (accLane (accLane (0 : BitVec n) a) b) c) d) =
      emitLane (accLane (accLane (accLane (accLane (0 : Acc) a) b) c) d)

/-- A core step with K above 4 is a fault of the model, whatever the state (R59, R20). -/
def Obligations.ReservedSelectorsAreFaults : Prop :=
  (∀ s : State, exec .reservedSel5 s = .fault (.reservedSelector 5) ∧
    exec .reservedSel6 s = .fault (.reservedSelector 6) ∧ exec .reservedSel7 s = .fault (.reservedSelector 7)) ∧
  (∀ s : State, s.regs.state = .busy → 4 < s.regs.k.toNat → s.inputs = [] →
    step s = .fault (.reservedSelector s.regs.k))

/-! ### The transform -/

/-- R83: monotonicity and bounds of the output sample as a function of the block. -/
def Obligations.OutputSampleBounds : Prop :=
  (∀ (b d : PixelBuffer 16) (x y : Nat) (c : Fin 3),
    (∀ col row, (b.sample col row c).toNat ≤ (d.sample col row c).toNat) →
    ((transform b).sample x y c).toNat ≤ ((transform d).sample x y c).toNat) ∧
  (∀ (b : PixelBuffer 16) (x y : Nat) (c : Fin 3),
    (((transform b).sample x y c).toNat = 0 ↔ b.blockSum x y c ≤ 255) ∧
    (((transform b).sample x y c).toNat = 255 ↔ 65280 ≤ b.blockSum x y c) ∧
    (256 ≤ b.blockSum x y c → b.blockSum x y c ≤ 65279 →
      ((transform b).sample x y c).toNat = b.blockSum x y c / 256 ∧
      1 ≤ ((transform b).sample x y c).toNat ∧ ((transform b).sample x y c).toNat ≤ 254) ∧
    (∀ v : Sample16, (∀ col row, b.sample col row c = v) →
      ((transform b).sample x y c).toNat = min (v.toNat / 64) 255) ∧
    ((∀ col row, (b.sample col row c).toNat ≤ 255) →
      b.blockSum x y c ≤ 1020 ∧ ((transform b).sample x y c).toNat ≤ 3))

/-- R80: the transform of a buffer is the transform of the buffer without its odd last column and row. -/
def Obligations.OddRowAndColumnAreDropped : Prop :=
  ∀ b : PixelBuffer 16, (transform b).width = (transform b.crop).width ∧
    (transform b).height = (transform b.crop).height ∧
    ∀ x y c, x < (transform b).width → y < (transform b).height →
      (transform b).sample x y c = (transform b.crop).sample x y c

/-! ### Isolation -/

/-- The core cannot write SRC, and writes DST only by EMIT, at the effective address (R23, R30, R34): every other
location of DST, and all of SRC, is as before whatever the operation. -/
def Obligations.OnlyEmitWritesAPixel : Prop :=
  ∀ (i : Instr) (s t : State), exec i s = .next t →
    t.src = s.src ∧ t.powerUp = s.powerUp ∧ t.inputs = s.inputs ∧
    (i ≠ .emit → t.dst = s.dst) ∧
    (i = .emit → ∀ a, a ≠ s.regs.dstIndex.toNat → t.dst.read a = s.dst.read a)

/-- R38: a core step reads SRC only at `row * W + col` with `col < 2 * OW` and `row < 2 * OH`: two machines that agree
on those locations, and on all but SRC, step alike. So the dropped row and column are never read (R80). -/
def Obligations.DroppedPixelsAreNeverRead : Prop :=
  ∀ (s : State) (m : Memory 48), s.Inv → s.regs.state = .busy → s.inputs = [] →
    (∀ col row, col < 2 * s.regs.outWidth.toNat → row < 2 * s.regs.outHeight.toNat →
      s.srcRead (BitVec.ofNat 32 (row * s.regs.width.toNat + col)) =
        { s with src := m }.srcRead (BitVec.ofNat 32 (row * s.regs.width.toNat + col))) →
    ∃ t, step s = .next t ∧ step { s with src := m } = .next { t with src := m }

/-! ### Invariants and runs -/

/-- The invariant holds after reset. -/
def Obligations.ResetSatisfiesTheInvariant : Prop := State.reset.Inv

/-- Every step keeps the invariant: STATE and ERR agree, the scan and the accumulators are as R108 says, the memories
are in canonical form. -/
def Obligations.EveryStepKeepsTheInvariant : Prop :=
  ∀ s t : State, s.Inv → step s = .next t → t.Inv

/-- In a state of the invariant no step stops: no core step and no host action raises a fault or is refused (R140,
R152, R164: "no error is raised", whether or not the pixel read was ever written). -/
def Obligations.NoStepStopsUnderTheInvariant : Prop :=
  ∀ s : State, s.Inv → ∃ t, step s = .next t

/-- The data of a run in progress is kept by every step of a machine whose host keeps its duties: the accumulators hold
the partial sums of the block (R108), and every output location below `Y * OW + X` holds its final value (R42 (c)).
A START establishes it. -/
def Obligations.EveryStepKeepsTheDataOfARun : Prop :=
  ∀ s t : State, s.Inv → (s.regs.state = .busy → s.DataOk ∧ s.DutiesKept) → step s = .next t →
    t.regs.state = .busy → t.DataOk

/-- The core step that ends a run leaves the whole output buffer in DST, and no error (R42 (b), R104, R109). -/
def Obligations.LastStepLeavesTheWholeOutput : Prop :=
  ∀ s t : State, s.Inv → s.regs.state = .busy → s.DataOk → s.DutiesKept → step s = .next t →
    t.regs.state = .done → t.HoldsResult ∧ t.sourceBuffer = s.sourceBuffer ∧ t.regs.err = .none

/-- R110: a run takes exactly five core steps for each output pixel, four ACC and one EMIT. START sets the count of
steps left; a core step takes one away: while `p` output pixels are left to write, five for each less the phase `K` are
left, a step in phase 0 to 3 is an ACC and leaves `p` pixels, and a step in phase 4 is an EMIT and leaves one fewer. No
transaction and no pixel access of the host changes the count, and it is 0 exactly when no run is in progress. That the
core has the turn when it is given one, or when the outside has no action left, is the model's choice (log entry 1), as
are the host's pixel accesses (log entry 13). -/
def Obligations.RunTakesFiveStepsPerPixel : Prop :=
  (∀ (v : HostWord) (s : State), v.getLsbD 0 = true → s.regs.state ≠ .busy →
    ∃ t, exec (.wrCtrlStart v) s = .next t ∧
      (s.regs.channels = 3 ∧ s.regs.depth = 16 →
        t.regs.stepsLeft = 5 * (s.regs.width.toNat / 2) * (s.regs.height.toNat / 2)) ∧
      (¬ (s.regs.channels = 3 ∧ s.regs.depth = 16) → t.regs.stepsLeft = 0)) ∧
  (∀ s : State, s.Inv → (s.regs.stepsLeft = 0 ↔ s.regs.state ≠ .busy)) ∧
  (∀ s u : State, s.Inv → s.regs.state = .busy →
    (s.inputs = [] ∧ u = s) ∨ (∃ l, s.inputs = .coreTurn :: l ∧ u = { s with inputs := l }) →
    ∃ t p, step s = .next t ∧ t.regs.stepsLeft + 1 = s.regs.stepsLeft ∧
      s.regs.stepsLeft + s.regs.k.toNat = 5 * p ∧ s.regs.k.toNat ≤ 4 ∧
      (s.regs.k.toNat ≤ 3 → (∃ dx dy, exec (.acc dx dy) u = .next t) ∧ t.regs.k.toNat = s.regs.k.toNat + 1 ∧
        t.regs.stepsLeft + t.regs.k.toNat = 5 * p) ∧
      (s.regs.k.toNat = 4 → exec .emit u = .next t ∧ t.regs.k = 0 ∧ t.regs.stepsLeft + 5 = 5 * p)) ∧
  (∀ (s : State) (a : HostAction) (l : List HostAction), s.regs.state = .busy → s.inputs = a :: l →
    a ≠ .coreTurn → a ≠ .reset → ∃ t, step s = .next t ∧ t.regs.stepsLeft = s.regs.stepsLeft)

/-- R176, and the bound of R110: a run in progress reaches DONE, whatever the outside does next, short of a reset:
after at most as many steps as there are outside actions to come and core steps left, and there are at most
`5 * 32767 * 32767` of those. That the core has every turn once the outside has no action left is the fairness the rule
asks for, and the model's choice (log entry 1). -/
def Obligations.EveryRunReachesDone : Prop :=
  ∀ s : State, s.Inv → s.regs.state = .busy → .reset ∉ s.inputs →
    s.regs.stepsLeft ≤ 5368381445 ∧
    ∃ n, n ≤ s.inputs.length + s.regs.stepsLeft ∧
      ∃ t : State, Host.Core.run Sys2Proof.core n s = .next t ∧ t.regs.state = .done ∧ t.regs.err = .none

/-- Raster order (R105 to R107; the order is the spec's own choice, log entry 9): after `n` core steps of a run, which
are `5 * m + j` with `j < 5`, the core is at the block of output column `m % OW` and row `m / OW`, in phase `j`; for
`j < 4` its next step is read number `4 * m + j` of SRC, at the index R106 gives it, and for `j = 4` it is write number
`m` of DST, to index `m`. -/
def Obligations.ScanVisitsTheBlocksInRasterOrder : Prop :=
  ∀ (s : State) (m j : Nat), s.Inv → s.regs.state = .busy → s.regs.y = 0 → s.regs.x = 0 → s.regs.k = 0 →
    s.inputs = [] → j < 5 → m < s.regs.outWidth.toNat * s.regs.outHeight.toNat →
    ∃ t : State, Host.Core.run Sys2Proof.core (5 * m + j) s = .next t ∧ t.regs.state = .busy ∧ t.regs.k.toNat = j ∧
      t.regs.x.toNat = m % s.regs.outWidth.toNat ∧ t.regs.y.toNat = m / s.regs.outWidth.toNat ∧
      (j < 4 → (t.regs.srcIndex (t.regs.k.extractLsb' 0 1) (t.regs.k.extractLsb' 1 1)).toNat =
        (2 * (m / s.regs.outWidth.toNat) + j / 2) * s.regs.width.toNat
          + (2 * (m % s.regs.outWidth.toNat) + j % 2)) ∧
      (j = 4 → t.regs.dstIndex.toNat = m)

/-- R109: from any state that is not BUSY, with the declared format 3 by 16 bits and at least two columns and rows, a
START and then any outside actions `l` and core turns, of which the last is the core turn that makes `5 * OW * OH`,
where no action is a reset or writes a source pixel or an output pixel of the run, leave DONE, no error, the output
dimensions, and in DST the transform of the source buffer that SRC held at the START. Every location of SRC, and every
other location of DST, is as before, but for those the host itself writes. That the actions of the outside are a list
is the model's choice (log entry 1). -/
def Obligations.RunComputesTheTransform : Prop :=
  ∀ (s : State) (w : TxnWord) (v : HostWord) (l : List HostAction),
    s.Inv → s.regs.state ≠ .busy → s.regs.channels = 3 → s.regs.depth = 16 →
    2 ≤ s.regs.width.toNat → 2 ≤ s.regs.height.toNat →
    s.inputs = .txn w :: (l ++ [.coreTurn]) → decodeTxn w = .wrCtrlStart v →
    (∀ a ∈ l, a ≠ .reset ∧ a.KeepsBuffers (s.regs.width.toNat * s.regs.height.toNat)
      ((s.regs.width.toNat / 2) * (s.regs.height.toNat / 2))) →
    l.count .coreTurn + 1 = 5 * (s.regs.width.toNat / 2) * (s.regs.height.toNat / 2) →
    ∃ t : State, Host.Core.run Sys2Proof.core (l.length + 2) s = .next t ∧
      t.regs.state = .done ∧ t.regs.err = .none ∧ t.inputs = [] ∧
      t.regs.outWidth.toNat = s.regs.width.toNat / 2 ∧ t.regs.outHeight.toNat = s.regs.height.toNat / 2 ∧
      (∀ x y, x < s.regs.width.toNat / 2 → y < s.regs.height.toNat / 2 →
        ∃ o, t.dst.read (y * (s.regs.width.toNat / 2) + x) = some o ∧
          ∀ c, chan8 o c = (transform s.sourceBuffer).sample x y c) ∧
      (∀ a, (∀ i p, .writeSrc i p ∈ l → i.toNat ≠ a) → t.src.read a = s.src.read a) ∧
      (∀ a, (s.regs.width.toNat / 2) * (s.regs.height.toNat / 2) ≤ a →
        (∀ i o, .writeDst i o ∈ l → i.toNat ≠ a) → t.dst.read a = s.dst.read a)

/-- R138: the host's call up to START, given to a core that is not BUSY, puts the pixels in SRC in row-major order
from index 0, sets the dimensions and the format, or leaves a format that is already right, and begins a run with the
accumulators clear. The pixel writes are outside actions of the model (log entries 13 and 20). -/
def Obligations.HostCallSetsUpTheRun : Prop :=
  ∀ (s : State) (pixels : List SrcPixel) (w h : HostWord) (setFormat : Bool),
    s.regs.state ≠ .busy → 2 ≤ w.toNat → w.toNat < 65536 → 2 ≤ h.toNat → h.toNat < 65536 →
    (setFormat = false → s.regs.channels = 3 ∧ s.regs.depth = 16) →
    pixels.length = w.toNat * h.toNat → s.inputs = callActions pixels w h setFormat →
    ∃ t : State, Host.Core.run Sys2Proof.core (pixels.length + if setFormat then 4 else 3) s = .next t ∧
      t.inputs = [] ∧ t.replies = s.replies ∧ t.dst = s.dst ∧
      t.regs.state = .busy ∧ t.regs.err = .none ∧ t.regs.width.toNat = w.toNat ∧ t.regs.height.toNat = h.toNat ∧
      t.regs.channels = 3 ∧ t.regs.depth = 16 ∧
      t.regs.outWidth.toNat = w.toNat / 2 ∧ t.regs.outHeight.toNat = h.toNat / 2 ∧
      t.regs.y = 0 ∧ t.regs.x = 0 ∧ t.regs.k = 0 ∧ t.regs.acc = ⟨0, 0, 0⟩ ∧
      ∀ (a : Nat) (p : SrcPixel), pixels[a]? = some p → t.src.read a = some p

/-- R138, the wait and the return value: a poll goes on waiting exactly when STATE is BUSY; in ERROR the call fails with
the number of ERR; in DONE the host reads both output dimensions and then DST, at indices 0 to `OW*OH - 1` and in that
order, and the call returns what they hold. The host's turns change nothing of the core and of the memories. In IDLE,
which a host sees when a reset ends the run, the call ends with neither, and a call that has ended does nothing more:
the model's choices (log entry 20; that the reads of DST are outside actions is log entry 13). -/
def Obligations.HostReadsTheReturnOfACall : Prop :=
  (∀ v : HostWord,
    (v.toNat % 4 = 1 → Call.afterPoll v = .waiting) ∧
    (v.toNat % 4 = 3 → ∃ code : BitVec 4, code.toNat = v.toNat / 16 % 16 ∧ Call.afterPoll v = .failure code) ∧
    (v.toNat % 4 = 2 → Call.afterPoll v = .askingWidth) ∧
    (v.toNat % 4 = 0 → Call.afterPoll v = .noReturn)) ∧
  (∀ s : State, ∃ c r, Call.waiting.turn s .host = some (c, { s with inputs := [], replies := r :: s.replies }) ∧
    (s.regs.state = .busy → c = .waiting) ∧ (s.regs.state = .idle → c = .noReturn) ∧
    (s.regs.state = .done → c = .askingWidth) ∧
    (s.regs.state = .error → ∃ code : BitVec 4, c = .failure code ∧ code.toNat =
      match s.regs.err with
      | .none => 0
      | .invalidDimensions => 1
      | .channelCountMismatch => 2
      | .unsupportedBitDepth => 3)) ∧
  (∀ (s : State) (n : Nat), s.regs.state = .done → n = s.regs.outWidth.toNat * s.regs.outHeight.toNat →
    ∃ ow oh pixels l,
      Call.waiting.turns s (List.replicate (n + 3) .host) =
        some (.output ow oh pixels, { s with inputs := [], replies := l }) ∧
      ow.toNat = s.regs.outWidth.toNat ∧ oh.toNat = s.regs.outHeight.toNat ∧ pixels.length = n ∧
      ∀ a : Index, a.toNat < n → pixels[a.toNat]? = some (s.dstRead a)) ∧
  (∀ (c : Call) (s : State), (c = .noReturn ∨ (∃ code, c = .failure code) ∨ ∃ ow oh p, c = .output ow oh p) →
    c.turn s .host = some (c, s)) ∧
  (∀ s : State, ∃ t, Call.waiting.turns s [.reset, .host] = some (.noReturn, t) ∧ t.regs = Regs.reset ∧
    t.src = s.src ∧ t.dst = s.dst)

/-- R138 as a whole, "gets the result of 42_sequencer.md rule R109": whenever the core is not BUSY, the call of a buffer
of any dimensions, 0 and 1 among them, returns the transform of that buffer, of half the width and half the height, for
every schedule of the host's and the core's turns that has no reset and gives the host time to hand over the buffer,
then the core its five steps for each output pixel, then the host time to take the output; more turns do no harm. DONE
and no error are left, and no other location of SRC and of DST is changed. That the turns stand in a list, and which
actions the host's turns are, is the model's choice (log entries 1, 13 and 20). -/
def Obligations.HostCallReturnsTheTransform : Prop :=
  ∀ (s : State) (pixels : List SrcPixel) (w h : HostWord) (setFormat : Bool) (before during after : List Agent),
    s.Inv → s.regs.state ≠ .busy → w.toNat < 65536 → h.toNat < 65536 → pixels.length = w.toNat * h.toNat →
    (setFormat = false → s.regs.channels = 3 ∧ s.regs.depth = 16) →
    .reset ∉ before ++ (during ++ after) →
    (pixels.length + if setFormat then 4 else 3) ≤ before.count .host →
    5 * ((w.toNat / 2) * (h.toNat / 2)) ≤ during.count .core →
    (w.toNat / 2) * (h.toNat / 2) + 3 ≤ after.count .host →
    ∃ ow oh out, ∃ t : State,
      (Call.begin pixels w h setFormat).turns s (before ++ (during ++ after)) = some (.output ow oh out, t) ∧
      ow.toNat = w.toNat / 2 ∧ oh.toNat = h.toNat / 2 ∧ out.length = (w.toNat / 2) * (h.toNat / 2) ∧
      (∀ x y o, x < w.toNat / 2 → y < h.toNat / 2 → out[y * (w.toNat / 2) + x]? = some o →
        ∀ c, chan8 o c = (transform (.ofPixels pixels w.toNat h.toNat)).sample x y c) ∧
      t.regs.state = .done ∧ t.regs.err = .none ∧
      (∀ a, pixels.length ≤ a → t.src.read a = s.src.read a) ∧
      (∀ a, (w.toNat / 2) * (h.toNat / 2) ≤ a → t.dst.read a = s.dst.read a)

/-- R138, a call that fails: with a FORMAT that START refuses and that the host leaves as it is, whenever the core is not
BUSY, the call of any buffer ends in a failure with code 2 for a channel count other than 3, else 3, once the host has
had time to hand over the buffer and to read STATUS once; "DST holds no result": it is as before. That the turns stand
in a list is the model's choice (log entries 1 and 20). -/
def Obligations.HostCallReportsARefusedFormat : Prop :=
  ∀ (s : State) (pixels : List SrcPixel) (w h : HostWord) (turns : List Agent),
    s.Inv → s.regs.state ≠ .busy → w.toNat < 65536 → h.toNat < 65536 → pixels.length = w.toNat * h.toNat →
    ¬ (s.regs.channels = 3 ∧ s.regs.depth = 16) → .reset ∉ turns → pixels.length + 4 ≤ turns.count .host →
    ∃ code, ∃ t : State,
      (Call.begin pixels w h false).turns s turns = some (.failure code, t) ∧
      code.toNat = (if s.regs.channels = 3 then 3 else 2) ∧ t.regs.state = .error ∧
      t.regs.outWidth = 0 ∧ t.regs.outHeight = 0 ∧ t.dst = s.dst

/-! ### The parameters ACCW and DIMW -/

/-- R5: the machine for any widths is the core when the parameters have their defaults, `ACCW = 32` and `DIMW = 16`:
the same states (so `AW = 32`), the same reset and the same step. -/
def Obligations.DefaultParametersGiveTheCore : Prop :=
  coreAt 32 16 = Sys2Proof.core ∧ (∀ s : State, stepAt s = step s) ∧
    ∀ (i : Instr) (s : State), execAt i s = exec i s

/-- "every value of 18 or more gives the same behaviour" (R16; D6): two machines whose accumulators have any two such
widths, and all else alike, step alike from states that hold the same numbers, under the bound of R108 on the
accumulators, which every step keeps; and from power-up, whatever the outside does, their runs of any length hold the
same numbers, in the registers, in both memories and in the replies. `DIMW` is any, and at another than 16 the registers
that have it are the model's choice (log entry 10). -/
def Obligations.EveryAccumulatorWidthStepsAlike : Prop :=
  (∀ (a b dimw aw : Nat) (s : State a dimw aw) (t : State b dimw aw), 18 ≤ a → 18 ≤ b →
    s.AgreesWith t → s.regs.AccOk →
    ∃ s' t', stepAt s = .next s' ∧ stepAt t = .next t' ∧ s'.AgreesWith t' ∧ s'.regs.AccOk) ∧
  (∀ (a b dimw n : Nat) (l : List (HostAction (2 * dimw))), 18 ≤ a → 18 ≤ b →
    ∃ (s : State a dimw (2 * dimw)) (t : State b dimw (2 * dimw)),
      Host.Core.run (coreAt a dimw) n ((State.powerOn a dimw (2 * dimw)).setInputs l) = .next s ∧
      Host.Core.run (coreAt b dimw) n ((State.powerOn b dimw (2 * dimw)).setInputs l) = .next t ∧ s.AgreesWith t)

/-- R5, for any `DIMW` of at least 1 that a data word can hold, that is, at most 32 (log entry 10): outside a run
`wr WIDTH` and `wr HEIGHT` store the low `DIMW` bits of the data and change nothing else, the dimension reads return the
registers' numbers, and an accepted START of the right format sets the output dimensions to the floor halves. That the
output dimensions, too, have `DIMW` bits is the model's choice (log entry 10). -/
def Obligations.DimensionWidthIsAParameter : Prop :=
  ∀ (accw dimw aw : Nat) (v : HostWord) (s : State accw dimw aw), 1 ≤ dimw → dimw ≤ 32 →
    (s.regs.state ≠ .busy →
      (∃ w : Dim dimw, w.toNat = v.toNat % 2 ^ dimw ∧
        execAt (.wrWidth v) s = .next { s with regs := { s.regs with width := w } }) ∧
      (∃ h : Dim dimw, h.toNat = v.toNat % 2 ^ dimw ∧
        execAt (.wrHeight v) s = .next { s with regs := { s.regs with height := h } }) ∧
      (s.regs.channels = 3 → s.regs.depth = 16 → ∃ t, execAt (.wrCtrlStart v) s = .next t ∧
        t.regs.outWidth.toNat = s.regs.width.toNat / 2 ∧ t.regs.outHeight.toNat = s.regs.height.toNat / 2)) ∧
    ∃ w h ow oh : HostWord, w.toNat = s.regs.width.toNat ∧ h.toNat = s.regs.height.toNat ∧
      ow.toNat = s.regs.outWidth.toNat ∧ oh.toNat = s.regs.outHeight.toNat ∧
      execAt .rdWidth s = .next { s with replies := .rdata w :: s.replies } ∧
      execAt .rdHeight s = .next { s with replies := .rdata h :: s.replies } ∧
      execAt .rdOutWidth s = .next { s with replies := .rdata ow :: s.replies } ∧
      execAt .rdOutHeight s = .next { s with replies := .rdata oh :: s.replies }

/-- `AW = 2 * DIMW` (R5) suffices for any `DIMW`: with the output dimensions the halves of the dimensions and the scan
position inside them, the indices of R102 computed in `2 * DIMW` bits are the exact numbers and lie inside the
buffers. That the output dimensions and the scan position have `DIMW` bits is the model's choice (log entry 10). -/
def Obligations.AddressWidthFollowsFromTheDimensions : Prop :=
  ∀ (accw dimw : Nat) (r : Regs accw dimw), r.outWidth.toNat = r.width.toNat / 2 →
    r.outHeight.toNat = r.height.toNat / 2 → r.x.toNat < r.outWidth.toNat → r.y.toNat < r.outHeight.toNat →
    (∀ dx dy : BitVec 1, (r.srcIndex dx dy (2 * dimw)).toNat =
        (2 * r.y.toNat + dy.toNat) * r.width.toNat + (2 * r.x.toNat + dx.toNat) ∧
      (r.srcIndex dx dy (2 * dimw)).toNat < r.height.toNat * r.width.toNat) ∧
    (r.dstIndex (2 * dimw)).toNat = r.y.toNat * r.outWidth.toNat + r.x.toNat ∧
    (r.dstIndex (2 * dimw)).toNat < r.outHeight.toNat * r.outWidth.toNat
end

