-- ==== Sys2Proof/Laws/State.lean ====
section
/-! SUPPORT. One lemma for each field of the state after each update of Machine/Ops.lean, so that no proof unfolds a
record update. -/

namespace Sys2Proof.Machine

open Sys2Proof

variable {accw dimw aw : Nat}

variable (s : State accw dimw aw)

/-! ### `setRegs` -/

@[simp] theorem State.setRegs_regs (r : Regs accw dimw) : (s.setRegs r).regs = r := rfl
@[simp] theorem State.setRegs_src (r : Regs accw dimw) : (s.setRegs r).src = s.src := rfl
@[simp] theorem State.setRegs_dst (r : Regs accw dimw) : (s.setRegs r).dst = s.dst := rfl
@[simp] theorem State.setRegs_inputs (r : Regs accw dimw) : (s.setRegs r).inputs = s.inputs := rfl
@[simp] theorem State.setRegs_replies (r : Regs accw dimw) : (s.setRegs r).replies = s.replies := rfl
@[simp] theorem State.setRegs_powerUp (r : Regs accw dimw) : (s.setRegs r).powerUp = s.powerUp := rfl

/-! ### `setSrc` -/

@[simp] theorem State.setSrc_regs (m : Memory 48) : (s.setSrc m).regs = s.regs := rfl
@[simp] theorem State.setSrc_src (m : Memory 48) : (s.setSrc m).src = m := rfl
@[simp] theorem State.setSrc_dst (m : Memory 48) : (s.setSrc m).dst = s.dst := rfl
@[simp] theorem State.setSrc_inputs (m : Memory 48) : (s.setSrc m).inputs = s.inputs := rfl
@[simp] theorem State.setSrc_replies (m : Memory 48) : (s.setSrc m).replies = s.replies := rfl
@[simp] theorem State.setSrc_powerUp (m : Memory 48) : (s.setSrc m).powerUp = s.powerUp := rfl

/-! ### `setDst` -/

@[simp] theorem State.setDst_regs (m : Memory 24) : (s.setDst m).regs = s.regs := rfl
@[simp] theorem State.setDst_src (m : Memory 24) : (s.setDst m).src = s.src := rfl
@[simp] theorem State.setDst_dst (m : Memory 24) : (s.setDst m).dst = m := rfl
@[simp] theorem State.setDst_inputs (m : Memory 24) : (s.setDst m).inputs = s.inputs := rfl
@[simp] theorem State.setDst_replies (m : Memory 24) : (s.setDst m).replies = s.replies := rfl
@[simp] theorem State.setDst_powerUp (m : Memory 24) : (s.setDst m).powerUp = s.powerUp := rfl

/-! ### `setInputs` -/

@[simp] theorem State.setInputs_regs (l : List (HostAction aw)) : (s.setInputs l).regs = s.regs := rfl
@[simp] theorem State.setInputs_src (l : List (HostAction aw)) : (s.setInputs l).src = s.src := rfl
@[simp] theorem State.setInputs_dst (l : List (HostAction aw)) : (s.setInputs l).dst = s.dst := rfl
@[simp] theorem State.setInputs_inputs (l : List (HostAction aw)) : (s.setInputs l).inputs = l := rfl
@[simp] theorem State.setInputs_replies (l : List (HostAction aw)) : (s.setInputs l).replies = s.replies := rfl
@[simp] theorem State.setInputs_powerUp (l : List (HostAction aw)) : (s.setInputs l).powerUp = s.powerUp := rfl

/-! ### `reply` -/

@[simp] theorem State.reply_regs (r : Reply) : (s.reply r).regs = s.regs := rfl
@[simp] theorem State.reply_src (r : Reply) : (s.reply r).src = s.src := rfl
@[simp] theorem State.reply_dst (r : Reply) : (s.reply r).dst = s.dst := rfl
@[simp] theorem State.reply_inputs (r : Reply) : (s.reply r).inputs = s.inputs := rfl
@[simp] theorem State.reply_replies (r : Reply) : (s.reply r).replies = r :: s.replies := rfl
@[simp] theorem State.reply_powerUp (r : Reply) : (s.reply r).powerUp = s.powerUp := rfl

/-! ### `readReply` -/

@[simp] theorem State.readReply_regs (v : HostWord) : (s.readReply v).regs = s.regs := rfl
@[simp] theorem State.readReply_src (v : HostWord) : (s.readReply v).src = s.src := rfl
@[simp] theorem State.readReply_dst (v : HostWord) : (s.readReply v).dst = s.dst := rfl
@[simp] theorem State.readReply_inputs (v : HostWord) : (s.readReply v).inputs = s.inputs := rfl
@[simp] theorem State.readReply_replies (v : HostWord) : (s.readReply v).replies = .rdata v :: s.replies := rfl
@[simp] theorem State.readReply_powerUp (v : HostWord) : (s.readReply v).powerUp = s.powerUp := rfl

/-! ### `srcWrite` -/

@[simp] theorem State.srcWrite_regs (a : Index aw) (p : SrcPixel) : (s.srcWrite a p).regs = s.regs := rfl
@[simp] theorem State.srcWrite_src (a : Index aw) (p : SrcPixel) : (s.srcWrite a p).src = s.src.write a.toNat p := rfl
@[simp] theorem State.srcWrite_dst (a : Index aw) (p : SrcPixel) : (s.srcWrite a p).dst = s.dst := rfl
@[simp] theorem State.srcWrite_inputs (a : Index aw) (p : SrcPixel) : (s.srcWrite a p).inputs = s.inputs := rfl
@[simp] theorem State.srcWrite_replies (a : Index aw) (p : SrcPixel) : (s.srcWrite a p).replies = s.replies := rfl
@[simp] theorem State.srcWrite_powerUp (a : Index aw) (p : SrcPixel) : (s.srcWrite a p).powerUp = s.powerUp := rfl

/-! ### `dstWrite` -/

@[simp] theorem State.dstWrite_regs (a : Index aw) (v : DstPixel) : (s.dstWrite a v).regs = s.regs := rfl
@[simp] theorem State.dstWrite_src (a : Index aw) (v : DstPixel) : (s.dstWrite a v).src = s.src := rfl
@[simp] theorem State.dstWrite_dst (a : Index aw) (v : DstPixel) : (s.dstWrite a v).dst = s.dst.write a.toNat v := rfl
@[simp] theorem State.dstWrite_inputs (a : Index aw) (v : DstPixel) : (s.dstWrite a v).inputs = s.inputs := rfl
@[simp] theorem State.dstWrite_replies (a : Index aw) (v : DstPixel) : (s.dstWrite a v).replies = s.replies := rfl
@[simp] theorem State.dstWrite_powerUp (a : Index aw) (v : DstPixel) : (s.dstWrite a v).powerUp = s.powerUp := rfl

/-! ### Registers -/

@[simp] theorem Regs.clearScan_y (r : Regs accw dimw) : r.clearScan.y = 0 := rfl
@[simp] theorem Regs.clearScan_x (r : Regs accw dimw) : r.clearScan.x = 0 := rfl
@[simp] theorem Regs.clearScan_k (r : Regs accw dimw) : r.clearScan.k = 0 := rfl
@[simp] theorem Regs.clearScan_acc (r : Regs accw dimw) : r.clearScan.acc = ⟨0, 0, 0⟩ := rfl
@[simp] theorem Regs.clearScan_state (r : Regs accw dimw) : r.clearScan.state = r.state := rfl
@[simp] theorem Regs.clearScan_err (r : Regs accw dimw) : r.clearScan.err = r.err := rfl
@[simp] theorem Regs.clearScan_width (r : Regs accw dimw) : r.clearScan.width = r.width := rfl
@[simp] theorem Regs.clearScan_height (r : Regs accw dimw) : r.clearScan.height = r.height := rfl
@[simp] theorem Regs.clearScan_channels (r : Regs accw dimw) : r.clearScan.channels = r.channels := rfl
@[simp] theorem Regs.clearScan_depth (r : Regs accw dimw) : r.clearScan.depth = r.depth := rfl
@[simp] theorem Regs.clearScan_outWidth (r : Regs accw dimw) : r.clearScan.outWidth = r.outWidth := rfl
@[simp] theorem Regs.clearScan_outHeight (r : Regs accw dimw) : r.clearScan.outHeight = r.outHeight := rfl

/-! ### Access to the memories after an update -/

@[simp] theorem State.srcRead_setRegs (r : Regs accw dimw) (a : Index aw) : (s.setRegs r).srcRead a = s.srcRead a := rfl
@[simp] theorem State.srcRead_setDst (m : Memory 24) (a : Index aw) : (s.setDst m).srcRead a = s.srcRead a := rfl
@[simp] theorem State.srcRead_setInputs (l : List (HostAction aw)) (a : Index aw) :
    (s.setInputs l).srcRead a = s.srcRead a := rfl
@[simp] theorem State.srcRead_reply (r : Reply) (a : Index aw) : (s.reply r).srcRead a = s.srcRead a := rfl
@[simp] theorem State.srcRead_readReply (v : HostWord) (a : Index aw) : (s.readReply v).srcRead a = s.srcRead a := rfl
@[simp] theorem State.srcRead_dstWrite (b : Index aw) (v : DstPixel) (a : Index aw) :
    (s.dstWrite b v).srcRead a = s.srcRead a := rfl
@[simp] theorem State.dstRead_setRegs (r : Regs accw dimw) (a : Index aw) : (s.setRegs r).dstRead a = s.dstRead a := rfl
@[simp] theorem State.dstRead_setSrc (m : Memory 48) (a : Index aw) : (s.setSrc m).dstRead a = s.dstRead a := rfl
@[simp] theorem State.dstRead_setInputs (l : List (HostAction aw)) (a : Index aw) :
    (s.setInputs l).dstRead a = s.dstRead a := rfl
@[simp] theorem State.dstRead_reply (r : Reply) (a : Index aw) : (s.reply r).dstRead a = s.dstRead a := rfl
@[simp] theorem State.dstRead_readReply (v : HostWord) (a : Index aw) : (s.readReply v).dstRead a = s.dstRead a := rfl
@[simp] theorem State.dstRead_srcWrite (b : Index aw) (p : SrcPixel) (a : Index aw) :
    (s.srcWrite b p).dstRead a = s.dstRead a := rfl

/-! ### Lanes -/

@[simp] theorem lanesOf_get {α : Type} (f : Fin 3 → α) (c : Fin 3) : (lanesOf f).get c = f c := by
  match c with
  | 0 => rfl
  | 1 => rfl
  | 2 => rfl

@[simp] theorem Lanes.get_same {α : Type} (a : α) (c : Fin 3) : (Lanes.mk a a a).get c = a := by
  match c with
  | 0 => rfl
  | 1 => rfl
  | 2 => rfl

@[ext] theorem Lanes.ext_get {α : Type} {k l : Lanes α} (h : ∀ c, k.get c = l.get c) : k = l := by
  obtain ⟨r, g, b⟩ := k
  have h0 := h 0
  have h1 := h 1
  have h2 := h 2
  simp only [Lanes.get] at h0 h1 h2
  simp [h0, h1, h2]

end Sys2Proof.Machine
end

