-- ==== Sys2Proof/Laws/Memory.lean ====
section
/-! SUPPORT. The laws of the pixel memories: read after write, and that every operation keeps the canonical form. -/

namespace Sys2Proof.Machine

open Sys2Proof

variable {n accw dimw aw : Nat}

@[simp] theorem Memory.read_nil (a : Nat) : Memory.read ([] : Memory n) a = none := rfl

theorem Memory.read_cons (b : Nat) (w : BitVec n) (m : Memory n) (a : Nat) :
    Memory.read ((b, w) :: m) a = if a = b then some w else Memory.read m a := rfl

/-- The location written reads as the value written. -/
@[simp] theorem Memory.read_write_same (m : Memory n) (a : Nat) (v : BitVec n) :
    (Memory.write m a v).read a = some v := by
  induction m with
  | nil => simp [Memory.write, Memory.read]
  | cons p m ih =>
    obtain ⟨b, w⟩ := p
    unfold Memory.write
    split
    · simp [Memory.read]
    · split
      · simp [Memory.read]
      · rename_i hab
        simp [Memory.read, hab, ih]

/-- "every other location keeps its content" (R34). -/
theorem Memory.read_write_other (m : Memory n) {a b : Nat} (v : BitVec n) (h : b ≠ a) :
    (Memory.write m a v).read b = Memory.read m b := by
  induction m with
  | nil => simp [Memory.write, Memory.read, h]
  | cons p m ih =>
    obtain ⟨c, w⟩ := p
    unfold Memory.write
    split
    · simp [Memory.read, h]
    · split
      · rename_i hac
        subst hac
        simp [Memory.read, h]
      · by_cases hbc : b = c
        · simp [Memory.read, hbc]
        · simp only [Memory.read, if_neg hbc, ih]

/-- What a read after a write gives, in one equation. -/
theorem Memory.read_write (m : Memory n) (a b : Nat) (v : BitVec n) :
    (Memory.write m a v).read b = if b = a then some v else Memory.read m b := by
  by_cases h : b = a
  · subst h; simp
  · rw [if_neg h, Memory.read_write_other m v h]

/-- The indices listed after a write: those listed before and the one written. -/
theorem Memory.mem_write {m : Memory n} {a : Nat} {v : BitVec n} {p : Nat × BitVec n}
    (h : p ∈ Memory.write m a v) : p = (a, v) ∨ p ∈ m := by
  induction m with
  | nil => simpa [Memory.write] using h
  | cons q m ih =>
    obtain ⟨c, w⟩ := q
    unfold Memory.write at h
    split at h
    · simpa using h
    · split at h
      · rcases List.mem_cons.1 h with h | h
        · exact .inl h
        · exact .inr (List.mem_cons_of_mem _ h)
      · rcases List.mem_cons.1 h with h | h
        · exact .inr (h ▸ List.mem_cons_self)
        · exact (ih h).imp_right (List.mem_cons_of_mem _)

/-- The empty memory is in canonical form. -/
theorem Memory.wf_nil : Memory.wf ([] : Memory n) aw := by simp [Memory.wf]

/-- A write inside the index space keeps the canonical form. -/
theorem Memory.wf_write {m : Memory n} {a : Nat} (v : BitVec n) (ha : a < 2 ^ aw) (h : m.wf aw) :
    (Memory.write m a v).wf aw := by
  refine ⟨?_, ?_⟩
  · have hp := h.1
    clear h
    induction m with
    | nil => simp [Memory.write]
    | cons q m ih =>
      obtain ⟨c, w⟩ := q
      have hc := List.pairwise_cons.1 hp
      unfold Memory.write
      split
      · rename_i hac
        refine List.pairwise_cons.2 ⟨?_, hp⟩
        intro q hq
        rcases List.mem_cons.1 hq with hq | hq
        · subst hq; exact hac
        · exact Nat.lt_trans hac (hc.1 q hq)
      · split
        · rename_i hac
          subst hac
          exact List.pairwise_cons.2 ⟨fun q hq => hc.1 q hq, hc.2⟩
        · refine List.pairwise_cons.2 ⟨?_, ih hc.2⟩
          intro q hq
          rcases Memory.mem_write hq with hq | hq
          · subst hq
            show c < a
            omega
          · exact hc.1 q hq
  · intro p hp
    rcases Memory.mem_write hp with hp | hp
    · subst hp; exact ha
    · exact h.2 p hp

/-- A pixel write of the core or the host keeps the canonical form. -/
theorem Memory.wf_write_index {m : Memory n} (a : Index aw) (v : BitVec n) (h : m.wf aw) :
    (Memory.write m a.toNat v).wf aw :=
  Memory.wf_write v a.isLt h

/-- The memories of the reset state are in canonical form. -/
theorem State.reset_memories_wf : State.reset.src.wf ∧ State.reset.dst.wf :=
  ⟨Memory.wf_nil, Memory.wf_nil⟩

/-- DST after a pixel write. -/
theorem State.dstRead_dstWrite (s : State accw dimw aw) (a b : Index aw) (v : DstPixel) :
    (s.dstWrite a v).dstRead b = if b = a then v else s.dstRead b := by
  unfold State.dstRead
  simp only [State.dstWrite_dst, State.dstWrite_powerUp, Memory.read_write, BitVec.toNat_inj]
  split <;> simp

/-- SRC after a pixel write. -/
theorem State.srcRead_srcWrite (s : State accw dimw aw) (a b : Index aw) (p : SrcPixel) :
    (s.srcWrite a p).srcRead b = if b = a then p else s.srcRead b := by
  unfold State.srcRead
  simp only [State.srcWrite_src, State.srcWrite_powerUp, Memory.read_write, BitVec.toNat_inj]
  split <;> simp

/-- Only the content and the power-up decide what a read gives. -/
theorem State.srcRead_congr {s t : State accw dimw aw} (h : t.src = s.src) (hp : t.powerUp = s.powerUp) (a : Index aw) :
    t.srcRead a = s.srcRead a := by
  unfold State.srcRead
  rw [h, hp]

end Sys2Proof.Machine
end

