-- ==== Sys2Proof/Laws/Ops.lean ====
section
/-! SUPPORT. What each shared operation of Machine/Ops.lean can do, said once, and what a step can do. -/

namespace Sys2Proof.Machine

open Sys2Proof

variable {accw dimw aw : Nat}

/-! ### Configuration writes -/

/-- A configuration write is dropped while BUSY (R125). -/
theorem State.configWrite_busy {s : State accw dimw aw} (r : Regs accw dimw) (h : s.regs.state = .busy) :
    s.configWrite r = s := by
  simp [State.configWrite, h]

/-- A configuration write outside a run (R129, R131, R133). -/
theorem State.configWrite_idle {s : State accw dimw aw} (r : Regs accw dimw) (h : s.regs.state ≠ .busy) :
    s.configWrite r = s.setRegs r := by
  simp [State.configWrite, h]

/-! ### Error entry and START -/

/-- Every field of the registers after an error entry (R144). -/
theorem State.raise_regs (s : State accw dimw aw) (code : ErrCode) :
    (s.raise code).regs =
      ⟨.error, code, s.regs.width, s.regs.height, s.regs.channels, s.regs.depth, 0, 0, 0, 0, 0, ⟨0, 0, 0⟩⟩ := rfl

/-- Every field of the registers after an accepted START without an error (R127). -/
theorem State.beginRun_regs (s : State accw dimw aw) :
    s.beginRun.regs =
      ⟨if s.regs.width >>> 1 = 0 ∨ s.regs.height >>> 1 = 0 then .done else .busy, .none, s.regs.width,
        s.regs.height, s.regs.channels, s.regs.depth, s.regs.width >>> 1, s.regs.height >>> 1, 0, 0, 0,
        ⟨0, 0, 0⟩⟩ := rfl

/-- An error entry changes registers only. -/
theorem State.raise_eq (s : State accw dimw aw) (code : ErrCode) : s.raise code = s.setRegs (s.raise code).regs := rfl

/-- A START without an error changes registers only. -/
theorem State.beginRun_eq (s : State accw dimw aw) : s.beginRun = s.setRegs s.beginRun.regs := rfl

/-- The two errors of a START (R142, R143, R146). -/
theorem Regs.formatError_cases (r : Regs accw dimw) :
    (r.channels ≠ 3 ∧ r.formatError = some .channelCountMismatch) ∨
    (r.channels = 3 ∧ r.depth ≠ 16 ∧ r.formatError = some .unsupportedBitDepth) ∨
    (r.channels = 3 ∧ r.depth = 16 ∧ r.formatError = none) := by
  by_cases hc : r.channels = 3
  · by_cases hd : r.depth = 16
    · exact .inr (.inr ⟨hc, hd, (if_neg (not_not.2 hc)).trans (if_neg (not_not.2 hd))⟩)
    · exact .inr (.inl ⟨hc, hd, (if_neg (not_not.2 hc)).trans (if_pos hd)⟩)
  · exact .inl ⟨hc, if_pos hc⟩

/-- Everything START can do (R127, R137, R146). -/
theorem State.start_cases (s : State accw dimw aw) :
    (s.regs.state = .busy ∧ s.start = s) ∨
    (s.regs.state ≠ .busy ∧ s.regs.channels ≠ 3 ∧ s.start = s.raise .channelCountMismatch) ∨
    (s.regs.state ≠ .busy ∧ s.regs.channels = 3 ∧ s.regs.depth ≠ 16 ∧ s.start = s.raise .unsupportedBitDepth) ∨
    (s.regs.state ≠ .busy ∧ s.regs.channels = 3 ∧ s.regs.depth = 16 ∧ s.start = s.beginRun) := by
  unfold State.start
  by_cases hb : s.regs.state = .busy
  · exact .inl ⟨hb, if_pos hb⟩
  · rw [if_neg hb]
    rcases s.regs.formatError_cases with ⟨hc, he⟩ | ⟨hc, hd, he⟩ | ⟨hc, hd, he⟩ <;> rw [he]
    · exact .inr (.inl ⟨hb, hc, rfl⟩)
    · exact .inr (.inr (.inl ⟨hb, hc, hd, rfl⟩))
    · exact .inr (.inr (.inr ⟨hb, hc, hd, rfl⟩))

/-- START changes registers only. -/
theorem State.start_eq (s : State accw dimw aw) : s.start = s.setRegs s.start.regs := by
  rcases s.start_cases with ⟨_, h⟩ | ⟨_, _, h⟩ | ⟨_, _, _, h⟩ | ⟨_, _, _, h⟩ <;> rw [h] <;> rfl

/-! ### The sequencer -/

/-- Everything the advance after an EMIT can do (R104). -/
theorem Regs.advance_cases (r : Regs accw dimw) :
    (r.x.toNat + 1 < r.outWidth.toNat ∧ r.advance = { r with k := 0, x := r.x + 1 }) ∨
    (r.outWidth.toNat ≤ r.x.toNat + 1 ∧ r.y.toNat + 1 < r.outHeight.toNat ∧
      r.advance = { r with k := 0, x := 0, y := r.y + 1 }) ∨
    (r.outWidth.toNat ≤ r.x.toNat + 1 ∧ r.outHeight.toNat ≤ r.y.toNat + 1 ∧
      r.advance = { r with k := 0, x := 0, y := 0, state := .done }) := by
  unfold Regs.advance
  split
  · exact .inl ⟨‹_›, rfl⟩
  · split
    · exact .inr (.inl ⟨by omega, ‹_›, rfl⟩)
    · exact .inr (.inr ⟨by omega, by omega, rfl⟩)

/-- The registers after an ACC step (R91, R103). -/
theorem State.accStep_regs (s : State accw dimw aw) (dx dy : BitVec 1) :
    (s.accStep dx dy).regs = { s.regs with
      acc := accumulate s.regs.acc (s.srcRead (s.regs.srcIndex dx dy aw)), k := s.regs.k + 1 } := rfl

/-- An ACC step changes registers only. -/
theorem State.accStep_eq (s : State accw dimw aw) (dx dy : BitVec 1) :
    s.accStep dx dy = s.setRegs (s.accStep dx dy).regs := rfl

/-- The registers after an EMIT step (R92, R104). -/
theorem State.emitStep_regs (s : State accw dimw aw) :
    s.emitStep.regs = Regs.advance { s.regs with acc := ⟨0, 0, 0⟩ } := rfl

/-- DST after an EMIT step (R92). -/
theorem State.emitStep_dst (s : State accw dimw aw) :
    s.emitStep.dst = s.dst.write (s.regs.dstIndex aw).toNat (emitPixel s.regs.acc) := rfl

/-- An EMIT step changes the registers and DST only. -/
theorem State.emitStep_eq (s : State accw dimw aw) :
    s.emitStep = (s.setRegs s.emitStep.regs).setDst s.emitStep.dst := rfl

/-! ### What a step can do -/

/-- The meaning of an operation is the one for any widths, at the default widths (R5). -/
theorem exec_eq_execAt (i : Instr) (s : State) : exec i s = execAt i s := by
  cases i <;> rfl

/-- The step is the one for any widths, at the default widths (R5). -/
theorem step_eq_stepAt (s : State) : step s = stepAt s := by
  unfold step stepAt
  cases nextTurn s with
  | perform i s' => exact exec_eq_execAt i s'
  | rest s' => rfl

/-- What an operation can do when it answers `next t`: a reply, a configuration write, START, nothing, or one of the
two micro-operations; nothing else. -/
theorem execAt_cases {i : Instr} {s t : State accw dimw aw} (h : execAt i s = .next t) :
    (∃ v, t = s.readReply v) ∨
    (∃ w h c d, t = s.configWrite { s.regs with width := w, height := h, channels := c, depth := d }) ∨
    (∃ v, i = .wrCtrlStart v ∧ t = s.start) ∨ t = s ∨
    (∃ dx dy, i = .acc dx dy ∧ t = s.accStep dx dy) ∨
    (i = .emit ∧ t = s.emitStep) := by
  cases i <;> simp only [execAt, execRdCtrl, execRdStatus, execRdWidth, execRdHeight, execRdFormat, execRdOutWidth,
    execRdOutHeight, execRdReserved, execWrCtrlStart, execWrCtrlNop, execWrWidth, execWrHeight, execWrFormat,
    execWrStatus, execWrOutWidth, execWrOutHeight, execWrReserved, execAcc, execEmit, execReservedSel5,
    execReservedSel6, execReservedSel7, Host.Outcome.next.injEq, reduceCtorEq] at h <;> subst h
  case wrWidth v => exact .inr (.inl ⟨dimField v dimw, s.regs.height, s.regs.channels, s.regs.depth, rfl⟩)
  case wrHeight v => exact .inr (.inl ⟨s.regs.width, dimField v dimw, s.regs.channels, s.regs.depth, rfl⟩)
  case wrFormat v => exact .inr (.inl ⟨s.regs.width, s.regs.height, channelsField v, depthField v, rfl⟩)
  case acc dx dy => exact .inr (.inr (.inr (.inr (.inl ⟨dx, dy, rfl, rfl⟩))))
  case emit => exact .inr (.inr (.inr (.inr (.inr ⟨rfl, rfl⟩))))
  case wrCtrlStart v => exact .inr (.inr (.inl ⟨v, rfl, rfl⟩))
  all_goals first
    | exact .inl ⟨_, rfl⟩
    | exact .inr (.inr (.inr (.inl rfl)))

/-- Every operation that a host word decodes to answers a next state. -/
theorem execAt_txn_next (w : TxnWord) (s : State accw dimw aw) : ∃ t, execAt (decodeTxn w) s = .next t := by
  unfold decodeTxn decodeWrite decodeRead
  repeat' split
  all_goals exact ⟨_, rfl⟩

/-- A host word decodes to no micro-operation. -/
theorem decodeTxn_not_uop (w : TxnWord) :
    (∀ dx dy, decodeTxn w ≠ .acc dx dy) ∧ decodeTxn w ≠ .emit := by
  unfold decodeTxn decodeWrite decodeRead
  repeat' split
  all_goals simp

/-- What a host transaction can do: a reply, a configuration write, START, or nothing. -/
theorem execAt_txn_cases {w : TxnWord} {s t : State accw dimw aw} (h : execAt (decodeTxn w) s = .next t) :
    (∃ v, t = s.readReply v) ∨
    (∃ w h c d, t = s.configWrite { s.regs with width := w, height := h, channels := c, depth := d }) ∨
    (∃ v, decodeTxn w = .wrCtrlStart v ∧ t = s.start) ∨ t = s := by
  rcases execAt_cases h with h | h | h | h | ⟨dx, dy, hi, _⟩ | ⟨hi, _⟩
  · exact .inl h
  · exact .inr (.inl h)
  · exact .inr (.inr (.inl h))
  · exact .inr (.inr (.inr h))
  · exact absurd hi ((decodeTxn_not_uop w).1 dx dy)
  · exact absurd hi (decodeTxn_not_uop w).2

/-- A core turn of a core that is not BUSY. -/
theorem coreTurn_rest {s : State accw dimw aw} (h : s.regs.state ≠ .busy) : coreTurn s = .rest s := if_neg h

/-- A core turn of a BUSY core. -/
theorem coreTurn_busy {s : State accw dimw aw} (h : s.regs.state = .busy) :
    coreTurn s = .perform (decodeSelector s.regs.k) s := if_pos h

/-- The micro-operation the phase selects (R57, R101), by the value of K. -/
theorem decodeSelector_casesAt (accw dimw aw : Nat) (k : Selector) :
    (k.toNat ≤ 3 ∧ decodeSelector k = .acc (k.extractLsb' 0 1) (k.extractLsb' 1 1)) ∨
    (k = 4 ∧ decodeSelector k = .emit) ∨
    (4 < k.toNat ∧ ∀ s : State accw dimw aw, execAt (decodeSelector k) s = .fault (.reservedSelector k)) := by
  have h : k = 0 ∨ k = 1 ∨ k = 2 ∨ k = 3 ∨ k = 4 ∨ k = 5 ∨ k = 6 ∨ k = 7 := by
    revert k; decide
  rcases h with h | h | h | h | h | h | h | h <;> subst h
  · exact .inl ⟨by decide, rfl⟩
  · exact .inl ⟨by decide, rfl⟩
  · exact .inl ⟨by decide, rfl⟩
  · exact .inl ⟨by decide, rfl⟩
  · exact .inr (.inl ⟨rfl, rfl⟩)
  · exact .inr (.inr ⟨by decide, fun _ => rfl⟩)
  · exact .inr (.inr ⟨by decide, fun _ => rfl⟩)
  · exact .inr (.inr ⟨by decide, fun _ => rfl⟩)

/-- What a core step can do when it answers `next t` (R100, R101, R103, R104). -/
theorem coreTurn_cases {s t : State accw dimw aw}
    (h : (match coreTurn s with | .perform i s' => execAt i s' | .rest s' => .next s') = .next t) :
    (s.regs.state ≠ .busy ∧ t = s) ∨
    (s.regs.state = .busy ∧ s.regs.k.toNat ≤ 3 ∧
      t = s.accStep (s.regs.k.extractLsb' 0 1) (s.regs.k.extractLsb' 1 1)) ∨
    (s.regs.state = .busy ∧ s.regs.k = 4 ∧ t = s.emitStep) := by
  by_cases hb : s.regs.state = .busy
  · rw [coreTurn_busy hb] at h
    rcases decodeSelector_casesAt accw dimw aw s.regs.k with ⟨hk, hd⟩ | ⟨hk, hd⟩ | ⟨_, hd⟩ <;> simp only [hd] at h
    · exact .inr (.inl ⟨hb, hk, (Host.Outcome.next.inj h).symm⟩)
    · exact .inr (.inr ⟨hb, hk, (Host.Outcome.next.inj h).symm⟩)
    · exact absurd h (by simp)
  · rw [coreTurn_rest hb] at h
    exact .inl ⟨hb, (Host.Outcome.next.inj h).symm⟩

/-- Everything a step can do when it answers `next t`. -/
theorem stepAt_cases {s t : State accw dimw aw} (h : stepAt s = .next t) :
    (∃ s', (s' = s ∧ s.inputs = [] ∨ ∃ l, s.inputs = .coreTurn :: l ∧ s' = s.setInputs l) ∧
      ((s'.regs.state ≠ .busy ∧ t = s') ∨
       (s'.regs.state = .busy ∧ s'.regs.k.toNat ≤ 3 ∧
         t = s'.accStep (s'.regs.k.extractLsb' 0 1) (s'.regs.k.extractLsb' 1 1)) ∨
       (s'.regs.state = .busy ∧ s'.regs.k = 4 ∧ t = s'.emitStep))) ∨
    (∃ w l, s.inputs = .txn w :: l ∧ execAt (decodeTxn w) (s.setInputs l) = .next t) ∨
    (∃ a p l, s.inputs = .writeSrc a p :: l ∧ t = (s.setInputs l).srcWrite a p) ∨
    (∃ a l, s.inputs = .readSrc a :: l ∧ t = (s.setInputs l).reply (.srcPixel (s.srcRead a))) ∨
    (∃ a v l, s.inputs = .writeDst a v :: l ∧ t = (s.setInputs l).dstWrite a v) ∨
    (∃ a l, s.inputs = .readDst a :: l ∧ t = (s.setInputs l).reply (.dstPixel (s.dstRead a))) ∨
    (∃ l, s.inputs = .reset :: l ∧ t = (s.setInputs l).resetRegs) := by
  unfold stepAt nextTurn at h
  split at h
  case h_1 _ i s' hn =>
    split at hn
    case h_1 hi =>
      refine .inl ⟨s, .inl ⟨rfl, hi⟩, coreTurn_cases ?_⟩
      rw [hn]; exact h
    case h_2 _ l hi =>
      refine .inl ⟨s.setInputs l, .inr ⟨l, hi, rfl⟩, coreTurn_cases ?_⟩
      rw [hn]; exact h
    case h_3 _ w l hi =>
      obtain ⟨rfl, rfl⟩ := Turn.perform.inj hn
      exact .inr (.inl ⟨w, l, hi, h⟩)
    all_goals exact absurd hn (by simp)
  case h_2 _ s' hn =>
    split at hn
    case h_1 hi =>
      refine .inl ⟨s, .inl ⟨rfl, hi⟩, coreTurn_cases ?_⟩
      rw [hn]; exact h
    case h_2 _ l hi =>
      refine .inl ⟨s.setInputs l, .inr ⟨l, hi, rfl⟩, coreTurn_cases ?_⟩
      rw [hn]; exact h
    case h_3 => exact absurd hn (by simp)
    case h_4 _ a p l hi =>
      refine .inr (.inr (.inl ⟨a, p, l, hi, ?_⟩))
      rw [← Host.Outcome.next.inj h, ← Turn.rest.inj hn]
    case h_5 _ a l hi =>
      refine .inr (.inr (.inr (.inl ⟨a, l, hi, ?_⟩)))
      rw [← Host.Outcome.next.inj h, ← Turn.rest.inj hn]
    case h_6 _ a v l hi =>
      refine .inr (.inr (.inr (.inr (.inl ⟨a, v, l, hi, ?_⟩))))
      rw [← Host.Outcome.next.inj h, ← Turn.rest.inj hn]
    case h_7 _ a l hi =>
      refine .inr (.inr (.inr (.inr (.inr (.inl ⟨a, l, hi, ?_⟩)))))
      rw [← Host.Outcome.next.inj h, ← Turn.rest.inj hn]
    case h_8 _ l hi =>
      refine .inr (.inr (.inr (.inr (.inr (.inr ⟨l, hi, ?_⟩)))))
      rw [← Host.Outcome.next.inj h, ← Turn.rest.inj hn]

/-! ### The same at the default widths -/

/-- The micro-operation the phase selects (R57, R101), by the value of K. -/
theorem decodeSelector_cases (k : Selector) :
    (k.toNat ≤ 3 ∧ decodeSelector k = .acc (k.extractLsb' 0 1) (k.extractLsb' 1 1)) ∨
    (k = 4 ∧ decodeSelector k = .emit) ∨
    (4 < k.toNat ∧ ∀ s : State, exec (decodeSelector k) s = .fault (.reservedSelector k)) := by
  simpa only [exec_eq_execAt] using decodeSelector_casesAt 32 16 32 k

/-- What an operation can do when it answers `next t`. -/
theorem exec_cases {i : Instr} {s t : State} (h : exec i s = .next t) :
    (∃ v, t = s.readReply v) ∨
    (∃ w h c d, t = s.configWrite { s.regs with width := w, height := h, channels := c, depth := d }) ∨
    (∃ v, i = .wrCtrlStart v ∧ t = s.start) ∨ t = s ∨
    (∃ dx dy, i = .acc dx dy ∧ t = s.accStep dx dy) ∨
    (i = .emit ∧ t = s.emitStep) :=
  execAt_cases (exec_eq_execAt i s ▸ h)

/-- Every operation that a host word decodes to answers a next state. -/
theorem exec_txn_next (w : TxnWord) (s : State) : ∃ t, exec (decodeTxn w) s = .next t :=
  exec_eq_execAt (decodeTxn w) s ▸ execAt_txn_next w s

/-- What a host transaction can do: a reply, a configuration write, START, or nothing. -/
theorem exec_txn_cases {w : TxnWord} {s t : State} (h : exec (decodeTxn w) s = .next t) :
    (∃ v, t = s.readReply v) ∨
    (∃ w h c d, t = s.configWrite { s.regs with width := w, height := h, channels := c, depth := d }) ∨
    (∃ v, decodeTxn w = .wrCtrlStart v ∧ t = s.start) ∨ t = s :=
  execAt_txn_cases (exec_eq_execAt (decodeTxn w) s ▸ h)

/-- Everything a step can do when it answers `next t`. -/
theorem step_cases {s t : State} (h : step s = .next t) :
    (∃ s', (s' = s ∧ s.inputs = [] ∨ ∃ l, s.inputs = .coreTurn :: l ∧ s' = s.setInputs l) ∧
      ((s'.regs.state ≠ .busy ∧ t = s') ∨
       (s'.regs.state = .busy ∧ s'.regs.k.toNat ≤ 3 ∧
         t = s'.accStep (s'.regs.k.extractLsb' 0 1) (s'.regs.k.extractLsb' 1 1)) ∨
       (s'.regs.state = .busy ∧ s'.regs.k = 4 ∧ t = s'.emitStep))) ∨
    (∃ w l, s.inputs = .txn w :: l ∧ exec (decodeTxn w) (s.setInputs l) = .next t) ∨
    (∃ a p l, s.inputs = .writeSrc a p :: l ∧ t = (s.setInputs l).srcWrite a p) ∨
    (∃ a l, s.inputs = .readSrc a :: l ∧ t = (s.setInputs l).reply (.srcPixel (s.srcRead a))) ∨
    (∃ a v l, s.inputs = .writeDst a v :: l ∧ t = (s.setInputs l).dstWrite a v) ∨
    (∃ a l, s.inputs = .readDst a :: l ∧ t = (s.setInputs l).reply (.dstPixel (s.dstRead a))) ∨
    (∃ l, s.inputs = .reset :: l ∧ t = (s.setInputs l).resetRegs) := by
  simpa only [exec_eq_execAt] using stepAt_cases (step_eq_stepAt s ▸ h)

end Sys2Proof.Machine
end

