-- ==== Sys2Proof/Laws/Datapath.lean ====
section
/-! SUPPORT. The operand forms and the datapath as numbers: one lemma for each function of Machine/Operands.lean. -/

namespace Sys2Proof.Machine

open Sys2Proof

variable {accw dimw : Nat}

/-- The source address as a number (R102), modulo the width it is computed in. -/
theorem Regs.srcIndex_toNat (r : Regs accw dimw) (dx dy : BitVec 1) (aw : Nat) : (r.srcIndex dx dy aw).toNat =
    ((2 * r.y.toNat + dy.toNat) * r.width.toNat + (2 * r.x.toNat + dx.toNat)) % 2 ^ aw := by
  unfold Regs.srcIndex
  simp [BitVec.toNat_add, BitVec.toNat_mul, BitVec.toNat_setWidth, Nat.add_mod, Nat.mul_mod]

/-- The destination address as a number (R102), modulo the width it is computed in. -/
theorem Regs.dstIndex_toNat (r : Regs accw dimw) (aw : Nat) :
    (r.dstIndex aw).toNat = (r.y.toNat * r.outWidth.toNat + r.x.toNat) % 2 ^ aw := by
  unfold Regs.dstIndex
  simp [BitVec.toNat_add, BitVec.toNat_mul, BitVec.toNat_setWidth, Nat.add_mod, Nat.mul_mod]

/-- One lane of ACC (R91). -/
theorem accLane_toNat (a : Acc accw) (v : Sample16) : (accLane a v).toNat = (a.toNat + v.toNat) % 2 ^ accw := by
  unfold accLane
  simp [BitVec.toNat_add, BitVec.toNat_setWidth]

/-- The accumulators after ACC, one lane at a time (R91). -/
@[simp] theorem accumulate_get (acc : Lanes (Acc accw)) (p : SrcPixel) (c : Fin 3) :
    (accumulate acc p).get c = accLane (acc.get c) (chan16 p c) := lanesOf_get _ c

/-- Saturation as a number (R7). -/
theorem sat8_toNat {n : Nat} (q : BitVec n) : (sat8 q).toNat = min q.toNat 255 := by
  unfold sat8
  split
  · rw [Nat.min_eq_right (by omega)]
    rfl
  · rw [BitVec.toNat_setWidth]
    omega

/-- One lane of EMIT as a number (R92). -/
theorem emitLane_toNat {n : Nat} (a : BitVec n) : (emitLane a).toNat = min (a.toNat / 256) 255 := by
  unfold emitLane
  rw [sat8_toNat, BitVec.toNat_ushiftRight, Nat.shiftRight_eq_div_pow]

/-- A sample of a packed pixel is the lane it was packed from (R34). -/
@[simp] theorem chan8_pack24 (o : Lanes Sample8) (c : Fin 3) : chan8 (pack24 o) c = o.get c := by
  unfold chan8 pack24
  apply BitVec.eq_of_getLsbD_eq
  intro i hi
  show ((o.b ++ o.g ++ o.r : BitVec (8 + 8 + 8)).extractLsb' _ _).getLsbD i = _
  rw [BitVec.getLsbD_extractLsb', BitVec.getLsbD_append, BitVec.getLsbD_append]
  match c with
  | 0 => simp [hi, Lanes.get]
  | 1 => simp [hi, Lanes.get, show ¬ (8 + i < 8) by omega]
  | 2 => simp [hi, Lanes.get, show ¬ (16 + i < 8) by omega, show ¬ (16 + i - 8 < 8) by omega,
      show 16 + i - 8 - 8 = i by omega]

/-- The data field of a dimension write as a number (R55). -/
theorem dimField_toNat (v : HostWord) (dimw : Nat) : (dimField v dimw).toNat = v.toNat % 2 ^ dimw := by
  simp [dimField, BitVec.extractLsb'_toNat]

/-- The CHANNELS field of a FORMAT write as a number (R55). -/
theorem channelsField_toNat (v : HostWord) : (channelsField v).toNat = v.toNat % 16 := by
  simp [channelsField, BitVec.extractLsb'_toNat]

/-- The DEPTH field of a FORMAT write as a number (R55). -/
theorem depthField_toNat (v : HostWord) : (depthField v).toNat = v.toNat / 256 % 32 := by
  simp [depthField, BitVec.extractLsb'_toNat, Nat.shiftRight_eq_div_pow]

/-- The half of a dimension as a number (R72). -/
theorem half_toNat (d : Dim dimw) : (d >>> 1).toNat = d.toNat / 2 := by
  simp [BitVec.toNat_ushiftRight, Nat.shiftRight_eq_div_pow]

/-- The half of a dimension is 0 exactly below 2 (R79). -/
theorem half_eq_zero (d : Dim dimw) : d >>> 1 = 0 ↔ d.toNat < 2 := by
  rw [← BitVec.toNat_inj, half_toNat]
  show d.toNat / 2 = 0 ↔ _
  omega

/-- A counter below its bound does not wrap when it is counted up (R94). -/
theorem succ_toNat {d e : Dim dimw} (h : d.toNat + 1 < e.toNat) : (d + 1).toNat = d.toNat + 1 := by
  have he := e.isLt
  have h1 : (1 : Dim dimw).toNat = 1 := by
    show (BitVec.ofNat dimw 1).toNat = 1
    rw [BitVec.toNat_ofNat, Nat.mod_eq_of_lt (by omega)]
  rw [BitVec.toNat_add, h1, Nat.mod_eq_of_lt (by omega)]

end Sys2Proof.Machine
end

