-- ==== Sys2Proof/Laws/Decode.lean ====
section
/-! SUPPORT. The fields of a transaction word (30_encoding.md R51), and what a word decodes to by its fields. -/

namespace Sys2Proof

/-- `WE` of a word put together from its fields. -/
theorem we_fields (we : BitVec 1) (off : Offset) (v : HostWord) :
    TxnWord.we (we ++ off ++ v : BitVec 41) = we.getLsbD 0 := by
  show (we ++ off ++ v : BitVec (1 + 8 + 32)).getLsbD 40 = _
  rw [BitVec.getLsbD_append, BitVec.getLsbD_append]
  simp

/-- `OFF` of a word put together from its fields. -/
theorem off_fields (we : BitVec 1) (off : Offset) (v : HostWord) :
    TxnWord.off (we ++ off ++ v : BitVec 41) = off := by
  show (we ++ off ++ v : BitVec (1 + 8 + 32)).extractLsb' 32 8 = _
  apply BitVec.eq_of_getLsbD_eq
  intro i hi
  rw [BitVec.getLsbD_extractLsb', BitVec.getLsbD_append, BitVec.getLsbD_append]
  simp [hi, show ¬ (32 + i < 32) by omega]

/-- `WDATA` of a word put together from its fields. -/
theorem wdata_fields (we : BitVec 1) (off : Offset) (v : HostWord) :
    TxnWord.wdata (we ++ off ++ v : BitVec 41) = v := by
  show (we ++ off ++ v : BitVec (1 + 8 + 32)).extractLsb' 0 32 = _
  apply BitVec.eq_of_getLsbD_eq
  intro i hi
  rw [BitVec.getLsbD_extractLsb', BitVec.getLsbD_append]
  simp [hi]

/-- A word is its three fields. -/
theorem txn_eq_fields (t : TxnWord) :
    t = (BitVec.ofBool (TxnWord.we t) ++ TxnWord.off t ++ TxnWord.wdata t : BitVec (1 + 8 + 32)) := by
  apply BitVec.eq_of_getLsbD_eq
  intro i hi
  rw [BitVec.getLsbD_append, BitVec.getLsbD_append]
  unfold TxnWord.we TxnWord.off TxnWord.wdata
  by_cases h1 : i < 32
  · simp [h1]
  · by_cases h2 : i - 32 < 8
    · simp [h1, h2, show 32 + (i - 32) = i by omega]
    · have h3 : i = 40 := by omega
      subst h3
      simp

/-- A word whose `WE` is clear decodes as a read of its offset (R52). -/
theorem decodeTxn_of_read {t : TxnWord} (h : TxnWord.we t = false) : decodeTxn t = decodeRead (TxnWord.off t) := by
  unfold decodeTxn
  rw [h]
  rfl

/-- A word whose `WE` is set decodes as a write of its data to its offset (R53). -/
theorem decodeTxn_of_write {t : TxnWord} (h : TxnWord.we t = true) :
    decodeTxn t = decodeWrite (TxnWord.off t) (TxnWord.wdata t) := by
  unfold decodeTxn
  rw [h]
  rfl

/-- What the word the encoder makes of a read decodes to. -/
theorem decodeTxn_readWord (off : Offset) : decodeTxn (readWord off) = decodeRead off := by
  unfold decodeTxn readWord
  rw [we_fields, off_fields]
  simp

/-- What the word the encoder makes of a write decodes to. -/
theorem decodeTxn_writeWord (off : Offset) (v : HostWord) : decodeTxn (writeWord off v) = decodeWrite off v := by
  unfold decodeTxn writeWord
  rw [we_fields, off_fields, wdata_fields]
  simp

end Sys2Proof
end

