-- ==== Sys2Proof/Laws/Run.lean ====
section
/-! SUPPORT. A run of the machine, one step at a time. -/

namespace Sys2Proof.Machine

open Sys2Proof

/-- A run of any machine whose first step answers `next t` goes on from `t`. -/
theorem run_succ_of_step (M : Host.Core) (s t : M.State) (h : M.step s = .next t) (n : Nat) :
    M.run (n + 1) s = M.run n t := by
  rw [Host.Core.run, h]

/-- A run of no step. -/
theorem run_zero (s : State) : Host.Core.run Sys2Proof.core 0 s = .next s := rfl

/-- A run whose first step answers `next t` goes on from `t`. -/
theorem run_succ {s t : State} (h : step s = .next t) (n : Nat) :
    Host.Core.run Sys2Proof.core (n + 1) s = Host.Core.run Sys2Proof.core n t :=
  run_succ_of_step Sys2Proof.core s t h n

/-- A step in which the host performs a transaction. -/
theorem step_txn {s : State} {w : TxnWord} {l : List HostAction} (h : s.inputs = .txn w :: l) :
    step s = exec (decodeTxn w) (s.setInputs l) := by
  unfold step nextTurn
  rw [h]

end Sys2Proof.Machine
end

