-- ==== Sys2Proof/Laws/HostCall.lean ====
section
/-! SUPPORT. What one turn of a host's call can do, and the call's tests of a STATUS word as numbers. -/

namespace Sys2Proof.Machine

open Sys2Proof

/-! ### One action from outside -/

/-- An action of the outside answers exactly where the step does. -/
theorem State.act_eq_some {s t : State} {a : HostAction} :
    s.act a = some t ↔ step (s.setInputs [a]) = .next t := by
  unfold State.act
  split <;> simp_all

/-- A transaction that is the host's action is executed. -/
theorem State.act_txn (s t : State) (w : TxnWord) :
    s.act (.txn w) = some t ↔ exec (decodeTxn w) (s.setInputs []) = .next t := State.act_eq_some

/-- A source pixel that is the host's action is written. -/
theorem State.act_writeSrc (s : State) (a : Index) (p : SrcPixel) :
    s.act (.writeSrc a p) = some ((s.setInputs []).srcWrite a p) := rfl

/-- A destination pixel that is the host's action is read. -/
theorem State.act_readDst (s : State) (a : Index) :
    s.act (.readDst a) = some ((s.setInputs []).reply (.dstPixel (s.dstRead a))) := rfl

/-- The reset input gives every register its reset value (R160). -/
theorem State.act_reset (s : State) : s.act .reset = some (s.setInputs []).resetRegs := rfl

/-! ### Turns -/

@[simp] theorem Call.turns_nil (c : Call) (s : State) : c.turns s [] = some (c, s) := rfl

/-- A schedule goes on from where its first turn leads. -/
theorem Call.turns_cons {c d : Call} {s t : State} {a : Agent} (h : c.turn s a = some (d, t)) (l : List Agent) :
    c.turns s (a :: l) = d.turns t l := by
  rw [Call.turns, h]
  rfl

/-- A schedule goes on from where its first part leads. -/
theorem Call.turns_append {c d : Call} {s t : State} {k : List Agent} (h : c.turns s k = some (d, t))
    (l : List Agent) : c.turns s (k ++ l) = d.turns t l := by
  induction k generalizing c s with
  | nil => cases h; rfl
  | cons a k ih =>
    unfold Call.turns at h
    cases ht : c.turn s a with
    | none => rw [ht] at h; exact absurd h (by simp)
    | some p =>
      rw [ht] at h
      exact (Call.turns_cons ht (k ++ l)).trans (ih h)

/-- The host's turn performs the call's action and hears the newest reply. -/
theorem Call.turn_host {c : Call} {s t : State} {a : HostAction} (ha : c.action = some a) (h : s.act a = some t) :
    c.turn s .host = some (c.hear t.replies.head?, t) := by
  unfold Call.turn
  rw [ha]
  simp [h]

/-! ### The tests of a STATUS word -/

/-- The wait ends on every STATUS but BUSY (R138). -/
theorem pollOver_iff (v : HostWord) : pollOver v = true ↔ v.toNat % 4 ≠ 1 := by
  unfold pollOver
  simp [← BitVec.toNat_inj, BitVec.extractLsb'_toNat]

/-- The failure code as a number (R138). -/
theorem failureCode_toNat (v : HostWord) : (failureCode v).toNat = v.toNat / 16 % 16 := by
  simp [failureCode, BitVec.extractLsb'_toNat, Nat.shiftRight_eq_div_pow]

end Sys2Proof.Machine
end

