-- ==== Sys2Proof/Laws/PerInstr.lean ====
section
/-! SUPPORT. Statements about every operation, one lemma per constructor. `EncodedAsTableRow`: the encoder gives each
well-formed operation a word of its row of spec/opcode_table.json, told by the row's mask and match. The masks and
matches are copied from the table; the encoder is written from R54, R57 and R61. -/

namespace Sys2Proof.Laws

open Sys2Proof

/-- `w &&& mask = match` for a transaction word. -/
def txnRow (mask value : TxnWord) : Encoded → Prop
  | .txn t => t &&& mask = value
  | .uop _ => False

/-- `k &&& mask = match` for a selector. -/
def uopRow (mask value : Selector) : Encoded → Prop
  | .txn _ => False
  | .uop k => k &&& mask = value

/-- The row of the table an operation stands for, as mask and match. -/
def tableRow : Instr → Encoded → Prop
  | .rdCtrl => txnRow 0x1FF00000000 0x00000000000
  | .rdStatus => txnRow 0x1FF00000000 0x00400000000
  | .rdWidth => txnRow 0x1FF00000000 0x00800000000
  | .rdHeight => txnRow 0x1FF00000000 0x00C00000000
  | .rdFormat => txnRow 0x1FF00000000 0x01000000000
  | .rdOutWidth => txnRow 0x1FF00000000 0x01400000000
  | .rdOutHeight => txnRow 0x1FF00000000 0x01800000000
  | .wrCtrlStart _ => txnRow 0x1FF00000001 0x10000000001
  | .wrCtrlNop _ => txnRow 0x1FF00000001 0x10000000000
  | .wrWidth _ => txnRow 0x1FF00000000 0x10800000000
  | .wrHeight _ => txnRow 0x1FF00000000 0x10C00000000
  | .wrFormat _ => txnRow 0x1FF00000000 0x11000000000
  | .wrStatus _ => txnRow 0x1FF00000000 0x10400000000
  | .wrOutWidth _ => txnRow 0x1FF00000000 0x11400000000
  | .wrOutHeight _ => txnRow 0x1FF00000000 0x11800000000
  | .rdReserved _ => txnRow 0x10000000000 0x00000000000
  | .wrReserved _ _ => txnRow 0x10000000000 0x10000000000
  | .acc _ _ => uopRow 0x4 0x0
  | .emit => uopRow 0x7 0x4
  | .reservedSel5 => uopRow 0x7 0x5
  | .reservedSel6 => uopRow 0x7 0x6
  | .reservedSel7 => uopRow 0x7 0x7

/-- The mask of WE and OFF keeps those two fields and clears the data (R52, R53). -/
theorem and_headMask (we : BitVec 1) (off : Offset) (v : HostWord) :
    (we ++ off ++ v : BitVec 41) &&& 0x1FF00000000 = (we ++ off ++ 0#32 : BitVec 41) := by
  have hm : (0x1FF00000000 : BitVec 41) = (BitVec.allOnes 1 ++ BitVec.allOnes 8 ++ 0#32 : BitVec 41) := by decide
  rw [hm, BitVec.and_append, BitVec.and_append, BitVec.and_allOnes, BitVec.and_allOnes, BitVec.and_zero]

/-- The mask of the CTRL rows keeps bit 0 of the data too (R53). -/
theorem and_startMask (we : BitVec 1) (off : Offset) (v : HostWord) :
    (we ++ off ++ v : BitVec 41) &&& 0x1FF00000001 = (we ++ off ++ (v &&& 1#32) : BitVec 41) := by
  have hm : (0x1FF00000001 : BitVec 41) = (BitVec.allOnes 1 ++ BitVec.allOnes 8 ++ 1#32 : BitVec 41) := by decide
  rw [hm, BitVec.and_append, BitVec.and_append, BitVec.and_allOnes, BitVec.and_allOnes]

/-- The mask of the reserved rows keeps WE alone. -/
theorem and_weMask (we : BitVec 1) (off : Offset) (v : HostWord) :
    (we ++ off ++ v : BitVec 41) &&& 0x10000000000 = (we ++ 0#8 ++ 0#32 : BitVec 41) := by
  have hm : (0x10000000000 : BitVec 41) = (BitVec.allOnes 1 ++ 0#8 ++ 0#32 : BitVec 41) := by decide
  rw [hm, BitVec.and_append, BitVec.and_append, BitVec.and_allOnes, BitVec.and_zero, BitVec.and_zero]

/-- Bit 0 of a word, as the word's value under the mask 1. -/
theorem and_one_of_bit (v : HostWord) : v &&& 1#32 = if v.getLsbD 0 then 1#32 else 0#32 := by
  apply BitVec.eq_of_getLsbD_eq
  intro j _
  rcases Nat.eq_zero_or_pos j with rfl | hj
  · cases h : v.getLsbD 0 <;> simpa using h
  · have hj0 : j ≠ 0 := by omega
    split <;> simp [hj0, BitVec.getLsbD_one]

/-- The encoding of a well-formed operation lies in its row of the opcode table. -/
def EncodedAsTableRow.Statement (i : Instr) : Prop := i.wf = true → tableRow i (encode i)

namespace EncodedAsTableRow

theorem rdCtrl : Statement .rdCtrl :=
  fun _ => (and_headMask _ _ _).trans (by decide)

theorem rdStatus : Statement .rdStatus :=
  fun _ => (and_headMask _ _ _).trans (by decide)

theorem rdWidth : Statement .rdWidth :=
  fun _ => (and_headMask _ _ _).trans (by decide)

theorem rdHeight : Statement .rdHeight :=
  fun _ => (and_headMask _ _ _).trans (by decide)

theorem rdFormat : Statement .rdFormat :=
  fun _ => (and_headMask _ _ _).trans (by decide)

theorem rdOutWidth : Statement .rdOutWidth :=
  fun _ => (and_headMask _ _ _).trans (by decide)

theorem rdOutHeight : Statement .rdOutHeight :=
  fun _ => (and_headMask _ _ _).trans (by decide)

theorem wrCtrlStart (v : HostWord) : Statement (.wrCtrlStart v) :=
  fun h => (and_startMask _ _ _).trans (by rw [and_one_of_bit, if_pos (show v.getLsbD 0 = true from h)]; decide)

theorem wrCtrlNop (v : HostWord) : Statement (.wrCtrlNop v) :=
  fun h => (and_startMask _ _ _).trans (by
    rw [and_one_of_bit, if_neg (by simpa [Instr.wf] using h)]; decide)

theorem wrWidth (v : HostWord) : Statement (.wrWidth v) :=
  fun _ => (and_headMask _ _ _).trans (by decide)

theorem wrHeight (v : HostWord) : Statement (.wrHeight v) :=
  fun _ => (and_headMask _ _ _).trans (by decide)

theorem wrFormat (v : HostWord) : Statement (.wrFormat v) :=
  fun _ => (and_headMask _ _ _).trans (by decide)

theorem wrStatus (v : HostWord) : Statement (.wrStatus v) :=
  fun _ => (and_headMask _ _ _).trans (by decide)

theorem wrOutWidth (v : HostWord) : Statement (.wrOutWidth v) :=
  fun _ => (and_headMask _ _ _).trans (by decide)

theorem wrOutHeight (v : HostWord) : Statement (.wrOutHeight v) :=
  fun _ => (and_headMask _ _ _).trans (by decide)

theorem rdReserved (off : Offset) : Statement (.rdReserved off) :=
  fun _ => (and_weMask _ _ _).trans (by decide)

theorem wrReserved (off : Offset) (v : HostWord) : Statement (.wrReserved off v) :=
  fun _ => (and_weMask _ _ _).trans (by decide)

theorem acc (dx dy : BitVec 1) : Statement (.acc dx dy) :=
  fun _ => by
    show (accSelector dx dy) &&& 0x4 = 0x0
    revert dx dy
    decide

theorem emit : Statement .emit :=
  fun _ => by show (_ : Selector) &&& _ = _; decide

theorem reservedSel5 : Statement .reservedSel5 :=
  fun _ => by show (_ : Selector) &&& _ = _; decide

theorem reservedSel6 : Statement .reservedSel6 :=
  fun _ => by show (_ : Selector) &&& _ = _; decide

theorem reservedSel7 : Statement .reservedSel7 :=
  fun _ => by show (_ : Selector) &&& _ = _; decide

end EncodedAsTableRow

end Sys2Proof.Laws
end

