-- ==== Sys2Proof/Tests/Slice0.lean ====
section
/-! SUPPORT. Tests, with expected results from spec/ (mostly the vectors of 95_test_vectors.md, named by section), and
for each obligation with hypotheses a concrete case that meets them. -/

namespace Sys2Proof.Tests

open Sys2Proof Sys2Proof.Machine

/-! ### Well-formedness: each check refuses an ill-formed term (R53, R54) -/

/-- Even data does not start a run. -/
theorem test_wf_refuses_start_with_bit0_clear : (Instr.wrCtrlStart 0xFFFFFFFE).wf = false := by decide

/-- Odd data does. -/
theorem test_wf_refuses_nop_with_bit0_set : (Instr.wrCtrlNop 1).wf = false := by decide

/-- The seven offsets of the register map are not reserved. -/
theorem test_wf_refuses_reserved_read_of_a_register :
    ∀ off ∈ [0x00, 0x04, 0x08, 0x0C, 0x10, 0x14, 0x18], (Instr.rdReserved off).wf = false := by decide

/-- The same for a write. -/
theorem test_wf_refuses_reserved_write_of_a_register :
    ∀ off ∈ [0x00, 0x04, 0x08, 0x0C, 0x10, 0x14, 0x18], (Instr.wrReserved off 0).wf = false := by decide

/-- Offsets that are no multiple of 4, and those above the map, are reserved. -/
theorem test_wf_accepts_reserved_offsets :
    ∀ off ∈ [0x01, 0x05, 0x09, 0x19, 0x1C, 0xFC, 0xFF], (Instr.rdReserved off).wf = true := by decide

/-! ### Decoding: a word from the spec for every constructor (section 2.6; R57) -/

theorem test_decode_rdCtrl : decode (.txn 0x00000000000#41) = .rdCtrl := by decide
theorem test_decode_rdStatus : decode (.txn 0x004DEADBEEF#41) = .rdStatus := by decide
theorem test_decode_rdWidth : decode (.txn 0x00800000000#41) = .rdWidth := by decide
theorem test_decode_rdHeight : decode (.txn 0x00C00000000#41) = .rdHeight := by decide
theorem test_decode_rdFormat : decode (.txn 0x01000000000#41) = .rdFormat := by decide
theorem test_decode_rdOutWidth : decode (.txn 0x01400000000#41) = .rdOutWidth := by decide
theorem test_decode_rdOutHeight : decode (.txn 0x01800000000#41) = .rdOutHeight := by decide
theorem test_decode_wrCtrlStart : decode (.txn 0x100FFFFFFFF#41) = .wrCtrlStart 0xFFFFFFFF := by decide
theorem test_decode_wrCtrlNop : decode (.txn 0x100FFFFFFFE#41) = .wrCtrlNop 0xFFFFFFFE := by decide
theorem test_decode_wrWidth : decode (.txn 0x10800000280#41) = .wrWidth 640 := by decide
theorem test_decode_wrHeight : decode (.txn 0x10C00000003#41) = .wrHeight 3 := by decide
theorem test_decode_wrFormat : decode (.txn 0x11000001004#41) = .wrFormat 0x1004 := by decide
theorem test_decode_wrStatus : decode (.txn 0x10400000000#41) = .wrStatus 0 := by decide
theorem test_decode_wrOutWidth : decode (.txn 0x11400000007#41) = .wrOutWidth 7 := by decide
theorem test_decode_wrOutHeight : decode (.txn 0x11800000007#41) = .wrOutHeight 7 := by decide
theorem test_decode_rdReserved : decode (.txn 0x0FC00000000#41) = .rdReserved 0xFC := by decide
theorem test_decode_wrReserved : decode (.txn 0x109FFFFFFFF#41) = .wrReserved 0x09 0xFFFFFFFF := by decide
/-- The gather order (0,0), (1,0), (0,1), (1,1) of R57. -/
theorem test_decode_acc : [0, 1, 2, 3].map (fun k : Selector => decode (.uop k)) =
    [.acc 0 0, .acc 1 0, .acc 0 1, .acc 1 1] := by decide
theorem test_decode_emit : decode (.uop 4) = .emit := by decide
theorem test_decode_reservedSel : [5, 6, 7].map (fun k : Selector => decode (.uop k)) =
    [.reservedSel5, .reservedSel6, .reservedSel7] := by decide

/-- Words of section 2.6, written by the encoder. -/
theorem test_encode_words : encode (.wrWidth 640) = .txn 0x10800000280#41 ∧
    encode (.wrReserved 0x09 0xFFFFFFFF) = .txn 0x109FFFFFFFF#41 ∧ encode .rdOutHeight = .txn 0x01800000000#41 ∧
    encode (.acc 0 1) = .uop 2 := by decide

/-- The table's numbering, and what is no encoding: a bit above the format's last, and a length that no format has. -/
theorem test_decodeTableWord : decodeTableWord 48 0x10000000001 = some (.wrCtrlStart 1) ∧
    decodeTableWord 41 0x00500000000 = some (.rdReserved 0x05) ∧ decodeTableWord 8 3 = some (.acc 1 1) ∧
    decodeTableWord 48 0x20000000000 = none ∧ decodeTableWord 8 8 = none ∧ decodeTableWord 16 0 = none := by decide

/-- The word of each text line of section 2.6 (R61), and the end of `wait` (R62). -/
theorem test_text_lines : (Line.wr .width 0x12345).assemble = 0x10800012345#41 ∧
    (Line.rdAt 0x1C).assemble = 0x01C00000000#41 ∧ [0, 1, 2, 0x23].map waitOver = [false, false, true, true] := by
  decide

/-! ### States and what is looked at after one step -/

/-- The reset state with other registers. -/
def withRegs (r : Regs) : State := { State.reset with regs := r }

/-- A run of a `w` by `h` buffer at scan position `(y, x, k)` with accumulators `acc`. -/
def runRegs (w h y x : Dim) (k : Selector) (acc : Lanes Acc) : Regs :=
  { Regs.reset with state := .busy, width := w, height := h, outWidth := w >>> 1, outHeight := h >>> 1,
                    y := y, x := x, k := k, acc := acc }

/-- ERROR with code 2, as a START with FORMAT 0x1004 leaves it. -/
def errorRegs : Regs := { Regs.reset with state := .error, err := .channelCountMismatch, channels := 4 }

/-- A 5 by 4 run at its first step. -/
def busyState : State := withRegs (runRegs 5 4 0 0 0 ⟨0, 0, 0⟩)

/-- The four white pixels of program P1. -/
def white : Memory 48 :=
  [(0, 0xFFFFFFFFFFFF), (1, 0xFFFFFFFFFFFF), (2, 0xFFFFFFFFFFFF), (3, 0xFFFFFFFFFFFF)]

/-- Program P1 before its last step. -/
def lastStepState : State :=
  { withRegs (runRegs 2 2 0 0 4 ⟨262140, 262140, 262140⟩) with src := white }

/-- The same state with other outside actions to come. -/
def given (s : State) (l : List HostAction) : State := { s with inputs := l }

/-- What `f` shows of the next state. -/
def after {α : Type} (o : Host.Outcome State Fault Refusal) (f : State → α) : Option α :=
  match o with
  | .next t => some (f t)
  | .fault _ => none
  | .refused _ => none

/-! ### One step of each operation -/

/-- Section 2.6: `rd CTRL`. -/
theorem test_rdCtrl : after (exec .rdCtrl busyState) State.replies = some [.rdata 0] := by decide

/-- Section 2.6: `rd STATUS` at reset, BUSY and ERROR. -/
theorem test_rdStatus : [State.reset, busyState, withRegs errorRegs].map
    (fun s => after (exec .rdStatus s) State.replies) =
      [some [.rdata 0x00000000], some [.rdata 0x00000001], some [.rdata 0x00000023]] := by decide

/-- `rd WIDTH` and `rd HEIGHT` of a 5 by 4 buffer (R128, R130). -/
theorem test_rdWidth : after (exec .rdWidth busyState) State.replies = some [.rdata 5] := by decide
theorem test_rdHeight : after (exec .rdHeight busyState) State.replies = some [.rdata 4] := by decide

/-- Section 2.6: `rd FORMAT` at reset. -/
theorem test_rdFormat : after (exec .rdFormat State.reset) State.replies = some [.rdata 0x00001003] := by decide

/-- The output dimensions of a 3 by 5 buffer, kept apart (R134, R135). -/
theorem test_rdOutWidth : after (exec .rdOutWidth (withRegs (runRegs 3 5 0 0 0 ⟨0, 0, 0⟩))) State.replies =
    some [.rdata 1] := by decide
theorem test_rdOutHeight : after (exec .rdOutHeight (withRegs (runRegs 3 5 0 0 0 ⟨0, 0, 0⟩))) State.replies =
    some [.rdata 2] := by decide

/-- Section 2.6: START of a 5 by 4 buffer. -/
theorem test_wrCtrlStart_begins :
    after (exec (.wrCtrlStart 1) (withRegs { Regs.reset with width := 5, height := 4 })) State.regs =
      some (runRegs 5 4 0 0 0 ⟨0, 0, 0⟩) := by decide

/-- Section 2.7: STATUS after START for each FORMAT, `WIDTH` and `HEIGHT` of the table. -/
theorem test_wrCtrlStart_status :
    ([(3, 16, 2, 2), (4, 16, 2, 2), (0, 16, 2, 2), (3, 8, 2, 2), (3, 0, 2, 2), (4, 8, 2, 2), (4, 16, 0, 0),
      (3, 16, 0, 0), (3, 16, 1, 65535)] : List (BitVec 4 × BitVec 5 × Dim × Dim)).map
      (fun c => after (exec (.wrCtrlStart 1) (withRegs { Regs.reset with
        channels := c.1, depth := c.2.1, width := c.2.2.1, height := c.2.2.2 })) (fun t => t.regs.statusWord)) =
    [some 0x01, some 0x23, some 0x23, some 0x33, some 0x33, some 0x23, some 0x23, some 0x02, some 0x02] := by decide

/-- Section 2.6: `wr CTRL, 0xFFFFFFFE`. -/
theorem test_wrCtrlNop : after (exec (.wrCtrlNop 0xFFFFFFFE) State.reset) id = some State.reset := by decide

/-- Section 2.6: `wr WIDTH, 0x12345`, and the dropped write while BUSY. -/
theorem test_wrWidth : after (exec (.wrWidth 0x12345) State.reset) (fun t => t.regs.width) = some 9029 ∧
    after (exec (.wrWidth 2) busyState) id = some busyState := by decide

/-- Section 2.6: `wr HEIGHT, 3`. -/
theorem test_wrHeight : after (exec (.wrHeight 3) State.reset) State.regs =
    some { Regs.reset with height := 3 } := by decide

/-- Section 2.6: `wr FORMAT` of 0x0803 and 0xFFFFF0F3. -/
theorem test_wrFormat : after (exec (.wrFormat 0x0803) State.reset) State.regs =
      some { Regs.reset with channels := 3, depth := 8 } ∧
    after (exec (.wrFormat 0xFFFFF0F3) State.reset) State.regs = some Regs.reset := by decide

/-- Section 2.6: writes of read-only registers and of a reserved offset. -/
theorem test_wrStatus : after (exec (.wrStatus 0) (withRegs errorRegs)) id = some (withRegs errorRegs) := by decide
theorem test_wrOutWidth : after (exec (.wrOutWidth 7) busyState) id = some busyState := by decide
theorem test_wrOutHeight : after (exec (.wrOutHeight 7) busyState) id = some busyState := by decide
theorem test_wrReserved : after (exec (.wrReserved 0x09 0xFFFFFFFF) State.reset) id = some State.reset := by decide

/-- Section 2.6: `rd @0x05` is not STATUS. -/
theorem test_rdReserved : after (exec (.rdReserved 0x05) busyState) State.replies = some [.rdata 0] := by decide

/-- Section 2.3: the lanes of ACC are independent, and R is the low field. -/
theorem test_acc_lanes : [((⟨300, 0, 65535⟩ : Lanes Acc), (0x0001FFFF0064#48)), (⟨0, 0, 0⟩, 0x000100020003#48),
      (⟨65535, 0, 0⟩, 0x000000000001#48)].map (fun c => accumulate c.1 c.2) =
    [⟨400, 65535, 65536⟩, ⟨3, 2, 1⟩, ⟨65536, 0, 0⟩] := by decide

/-- Section 2.5: `ACC 1,1` of a 5 wide buffer at `(1, 1)` reads index 18, and the phase moves on. -/
theorem test_acc_step :
    after (exec (.acc 1 1) { withRegs (runRegs 5 4 1 1 3 ⟨7, 0, 0⟩) with src := [(18, 0x000200010003), (19, 0xFFFF)] })
      State.regs = some (runRegs 5 4 1 1 4 ⟨10, 1, 2⟩) := by decide

/-- Section 2.4: the word EMIT writes. -/
theorem test_emit_words : ([⟨255, 256, 511⟩, ⟨65279, 65280, 65536⟩, ⟨131072, 0, 0⟩, ⟨2200, 2600, 3000⟩,
      ⟨0xFFFFFFFF, 0x00010000, 0x0000FFFF⟩] : List (Lanes Acc)).map emitPixel =
    [0x010100, 0xFFFFFE, 0x0000FF, 0x0B0A08, 0xFFFFFF] := by decide

/-- Section 2.5: EMIT at the end of a row, and at the end of a run. -/
theorem test_emit_step :
    after (exec .emit (withRegs (runRegs 4 4 0 1 4 ⟨1024, 2048, 3072⟩))) (fun t => (t.regs, t.dst)) =
      some (runRegs 4 4 1 0 0 ⟨0, 0, 0⟩, [(1, 0x0C0804)]) ∧
    after (exec .emit (withRegs (runRegs 4 4 1 1 4 ⟨0, 0, 0⟩))) (fun t => (t.regs, t.dst)) =
      some ({ runRegs 4 4 0 0 0 ⟨0, 0, 0⟩ with state := .done }, [(3, 0)]) := by decide

/-- R59: a core step with K above 4 is a fault of the model. -/
theorem test_reservedSel : [5, 6, 7].map (fun k => after (step (withRegs (runRegs 2 2 0 0 k ⟨0, 0, 0⟩))) id) =
    [none, none, none] := by decide

/-! ### One step of the machine -/

/-- A core that is not BUSY does nothing (R100). -/
theorem test_step_idle : after (step State.reset) id = some State.reset := by decide

/-- Section 2.8: reset in the middle of a run keeps what was written. -/
theorem test_step_reset : after (step (given { busyState with dst := [(0, 0x0B0A08)], src := white } [.reset])) id =
    some { State.reset with dst := [(0, 0x0B0A08)], src := white } := by decide

/-- A pixel the host wrote is the one it reads back (R41). -/
theorem test_step_pixels : after (step (given State.reset [.writeSrc 7 0x0001FFFF0064])) State.src =
      some [(7, 0x0001FFFF0064)] ∧
    after (step (given lastStepState [.readSrc 3])) State.replies = some [.srcPixel 0xFFFFFFFFFFFF] := by decide

/-- The word placed for the next step runs as the first one after reset. -/
theorem test_step_placed : after (step (State.reset.withFetchWord 48 0x10800000280)) State.regs =
      some { Regs.reset with width := 640 } ∧
    after (step (State.reset.withFetchWord 8 4)) (fun t => (t.regs.state, t.dst)) = some (.done, [(0, 0)]) := by decide

/-! ### Cases that meet the hypotheses of the obligations -/

theorem witness_DecodeOfEncodeIsTheInstruction : (Instr.wrCtrlStart 0xFFFFFFFF).wf = true ∧
    (Instr.wrCtrlNop 0).wf = true ∧ (Instr.rdReserved 0x19).wf = true ∧ (Instr.wrReserved 0xFF 0).wf = true ∧
    (Instr.acc 1 1).wf = true := by decide

/-- A word for each mask and match of R52 and R53, with junk in the data where the mask leaves it free. -/
theorem witness_HostWordsDecodeByMaskAndMatch_reads :
    [0x000FFFFFFFF#41, 0x004FFFFFFFF, 0x00800000001, 0x00C80000000, 0x01000001003, 0x01400000000, 0x018FFFFFFFF].map
      (fun t => t &&& 0x1FF00000000#41) =
    [0x00000000000#41, 0x00400000000, 0x00800000000, 0x00C00000000, 0x01000000000, 0x01400000000, 0x01800000000] := by
  decide
theorem witness_HostWordsDecodeByMaskAndMatch_ctrl : 0x100FFFFFFFF#41 &&& 0x1FF00000001#41 = 0x10000000001#41 ∧
    0x100FFFFFFFE#41 &&& 0x1FF00000001#41 = 0x10000000000#41 := by decide
theorem witness_HostWordsDecodeByMaskAndMatch_writes :
    [0x108FFFFFFFF#41, 0x10C00000001, 0x11000001003, 0x10400000001, 0x11400000001, 0x118FFFFFFFF].map
      (fun t => t &&& 0x1FF00000000#41) =
    [0x10800000000#41, 0x10C00000000, 0x11000000000, 0x10400000000, 0x11400000000, 0x11800000000] := by decide

/-- The lowest and the highest reserved offset, in a read's and in a write's word. -/
theorem witness_HostWordsDecodeByMaskAndMatch_reserved :
    isReservedOffset (BitVec.extractLsb' 32 8 0x00100000000#41) = true ∧
    0x00100000000#41 &&& 0x10000000000#41 = 0x00000000000#41 ∧
    isReservedOffset (BitVec.extractLsb' 32 8 0x1FFFFFFFFFF#41) = true ∧
    0x1FFFFFFFFFF#41 &&& 0x10000000000#41 = 0x10000000000#41 := by decide

theorem witness_StepRunsTheHostTransaction :
    (given busyState [.txn 0x100FFFFFFFF#41]).inputs = .txn 0x100FFFFFFFF#41 :: [] := by decide

theorem witness_StepRunsTheSelectedMicroOperation :
    (busyState.regs.state = .busy ∧ busyState.inputs = [] ∧ busyState.regs.k.toNat ≤ 3) ∧
    ((given busyState [.coreTurn]).regs.state = .busy ∧
      (given busyState [.coreTurn]).inputs = .coreTurn :: [] ∧
      busyState = { given busyState [.coreTurn] with inputs := [] }) ∧
    (∀ k ∈ [3, 4, 5, 6, 7], (withRegs (runRegs 2 2 0 0 k ⟨0, 0, 0⟩)).regs.state = .busy ∧
      (withRegs (runRegs 2 2 0 0 k ⟨0, 0, 0⟩)).regs.k = k ∧
      (withRegs (runRegs 2 2 0 0 k ⟨0, 0, 0⟩)).inputs = []) := by decide

theorem witness_PlacedWordIsTheNextInstruction : 0x1FFFFFFFFFF < 2 ^ 41 ∧ 0 < 2 ^ 41 ∧ 7 < 2 ^ 3 ∧ 4 < 2 ^ 3 := by
  decide

theorem witness_CoreStepsExactlyWhenBusy :
    (State.reset.regs.state ≠ .busy ∧ State.reset.inputs = []) ∧
    ((given State.reset [.coreTurn]).regs.state ≠ .busy ∧
      (given State.reset [.coreTurn]).inputs = .coreTurn :: []) ∧
    (lastStepState.regs.state = .busy ∧ lastStepState.regs.k.toNat ≤ 4 ∧ lastStepState.inputs = []) ∧
    ((given busyState [.writeSrc 0 1]).regs.state = .busy ∧
      (given busyState [.writeSrc 0 1]).inputs = .writeSrc 0 1 :: [] ∧
      (.writeSrc 0 1 : HostAction) ≠ .coreTurn ∧ (.writeSrc 0 1 : HostAction) ≠ .reset) := by decide

theorem witness_HostPixelAccessesReadAndWrite :
    (given busyState [.writeSrc 0 1]).inputs = .writeSrc 0 1 :: [] ∧
    (given State.reset [.writeDst 0xFFFFFFFF 2]).inputs = .writeDst 0xFFFFFFFF 2 :: [] ∧
    (given State.reset [.readSrc 0xFFFFFFFF]).inputs = .readSrc 0xFFFFFFFF :: [] ∧
    (given State.reset [.readDst 0]).inputs = .readDst 0 :: [] := by decide

theorem witness_ResetInputSetsEveryRegister : (given lastStepState [.reset]).inputs = .reset :: [] := by decide

/-- A START that ends in ERROR and one that does not, and the two ways an operation keeps the output dimensions. -/
theorem witness_CtrlAndDimensionReadsReturnTheirValue :
    ((withRegs errorRegs).regs.state ≠ .busy ∧ (withRegs errorRegs).start.regs.state = .error) ∧
    (State.reset.regs.state ≠ .busy ∧ State.reset.start.regs.state ≠ .error) ∧
    (exec .emit lastStepState = .next lastStepState.emitStep ∧ ∀ v, Instr.emit ≠ .wrCtrlStart v) ∧
    (exec (.wrCtrlStart 1) busyState = .next busyState ∧ busyState.regs.state = .busy) :=
  ⟨by decide, by decide, ⟨rfl, (fun _ h => by cases h)⟩, rfl, rfl⟩

/-- The invariant at the first step of a run. -/
theorem busyState_inv : busyState.Inv where
  err := rfl
  halves := by decide
  noResult := by decide
  run _ := ⟨by decide, by decide, by decide, by decide, by decide, by decide⟩
  rest h := absurd rfl h
  src := by decide
  dst := by decide

/-- The invariant before the last step of program P1. -/
theorem lastStepState_inv : lastStepState.Inv where
  err := rfl
  halves := by decide
  noResult := by decide
  run _ := ⟨by decide, by decide, by decide, by decide, by decide, by decide⟩
  rest h := absurd rfl h
  src := by decide
  dst := by decide

/-- The largest run, before its last ACC (section 2.5). -/
theorem largest_inv : (withRegs (runRegs 65535 65535 32766 32766 3 ⟨196605, 0, 1⟩)).Inv where
  err := rfl
  halves := by decide
  noResult := by decide
  run _ := ⟨by decide, by decide, by decide, by decide, by decide, by decide⟩
  rest h := absurd rfl h
  src := by decide
  dst := by decide

theorem witness_StatusReadReturnsErrAndState : busyState.Inv := busyState_inv

theorem witness_FormatReadPlacesDepthAndChannels : State.reset.regs = Regs.reset := rfl

theorem witness_ReservedOffsetsReadZeroAndIgnoreWrites :
    ((0x19 : Offset).toNat % 4 ≠ 0) ∧ isReservedOffset 0x1C = true ∧ isReservedOffset 0xFF = true := by decide

theorem witness_ReadsShowOnlyHostVisibleRegisters : (0x004FFFFFFFF#41).getLsbD 40 = false ∧
    busyState.regs.state = (withRegs (runRegs 5 4 1 1 3 ⟨1, 2, 3⟩)).regs.state ∧
    busyState.regs.err = (withRegs (runRegs 5 4 1 1 3 ⟨1, 2, 3⟩)).regs.err ∧
    busyState.regs.width = (withRegs (runRegs 5 4 1 1 3 ⟨1, 2, 3⟩)).regs.width ∧
    busyState.regs.height = (withRegs (runRegs 5 4 1 1 3 ⟨1, 2, 3⟩)).regs.height ∧
    busyState.regs.channels = (withRegs (runRegs 5 4 1 1 3 ⟨1, 2, 3⟩)).regs.channels ∧
    busyState.regs.depth = (withRegs (runRegs 5 4 1 1 3 ⟨1, 2, 3⟩)).regs.depth ∧
    busyState.regs.outWidth = (withRegs (runRegs 5 4 1 1 3 ⟨1, 2, 3⟩)).regs.outWidth ∧
    busyState.regs.outHeight = (withRegs (runRegs 5 4 1 1 3 ⟨1, 2, 3⟩)).regs.outHeight := by decide

theorem witness_DimensionWritesStoreSixteenBits :
    State.reset.regs.state ≠ .busy ∧ busyState.regs.state = .busy := by decide

theorem witness_FormatWriteStoresItsTwoFields :
    (withRegs errorRegs).regs.state ≠ .busy ∧ busyState.regs.state = .busy ∧ (0x0803#32).toNat % 16 = 3 ∧
    (0x0803#32).toNat / 256 % 32 ≠ 16 ∧ (0x1004#32).toNat % 16 ≠ 3 := by decide

theorem witness_ConfigurationIsConstantDuringARun : lastStepState.regs.state = .busy ∧
    (∀ l, lastStepState.inputs ≠ .reset :: l) ∧ ∃ t, step lastStepState = .next t :=
  ⟨rfl, (fun _ h => by cases h), _, rfl⟩

theorem witness_CtrlNopAndReadOnlyWritesDoNothing : (0xFFFFFFFE#32).getLsbD 0 = false := by decide

theorem witness_StartWhileBusyIsIgnored :
    (1#32).getLsbD 0 = true ∧ (withRegs (runRegs 2 2 0 0 3 ⟨0, 0, 0⟩)).regs.state = .busy := by decide

theorem witness_HostTransactionsDoNotDisturbARun : busyState.regs.state = .busy := by decide

theorem witness_StartRunsChecksThenBegins : (0xFFFFFFFF#32).getLsbD 0 = true ∧
    ((withRegs errorRegs).regs.state ≠ .busy ∧ (withRegs errorRegs).regs.channels ≠ 3) ∧
    ((withRegs { Regs.reset with depth := 8 }).regs.state ≠ .busy ∧
      (withRegs { Regs.reset with depth := 8 }).regs.channels = 3 ∧
      (withRegs { Regs.reset with depth := 8 }).regs.depth ≠ 16) ∧
    (State.reset.regs.state ≠ .busy ∧ State.reset.regs.channels = 3 ∧ State.reset.regs.depth = 16) := by decide

theorem witness_StartRaisesExactlyTheDeclaredFormatErrors :
    (1#32).getLsbD 0 = true ∧ (withRegs errorRegs).regs.state ≠ .busy := by decide

theorem witness_OnlyStartRaisesAnError :
    (exec .emit lastStepState = .next lastStepState.emitStep ∧ ∀ v, Instr.emit ≠ .wrCtrlStart v) ∧
    (exec (.wrCtrlStart 1) busyState = .next busyState ∧ busyState.regs.state = .busy) :=
  ⟨⟨rfl, (fun _ h => by cases h)⟩, rfl, rfl⟩

theorem witness_SmallDimensionsEndInDone : (1#32).getLsbD 0 = true ∧
    (withRegs { Regs.reset with width := 1, height := 65535 }).regs.state ≠ .busy ∧
    (withRegs { Regs.reset with width := 1, height := 65535 }).regs.channels = 3 ∧
    (withRegs { Regs.reset with width := 1, height := 65535 }).regs.depth = 16 ∧
    (withRegs { Regs.reset with width := 1, height := 65535 }).regs.width.toNat < 2 ∧
    (State.reset.regs.state ≠ .busy ∧ State.reset.regs.height.toNat < 2) := by decide

/-- Code 1 is not reachable, so a state that holds it is written out; a core step keeps it. -/
theorem witness_SmallDimensionsEndInDone_code1 :
    exec .rdCtrl (withRegs { Regs.reset with err := .invalidDimensions }) =
      .next ((withRegs { Regs.reset with err := .invalidDimensions }).readReply 0) ∧
    ((withRegs { Regs.reset with err := .invalidDimensions }).readReply 0).regs.err = .invalidDimensions := ⟨rfl, rfl⟩

theorem witness_StartForgetsTheEarlierRun :
    State.reset.regs.state ≠ .busy ∧
    (withRegs { Regs.reset with state := .done, outWidth := 2 }).regs.state ≠ .busy ∧
    (withRegs { Regs.reset with state := .done, outWidth := 2 }).regs.width = State.reset.regs.width ∧
    (withRegs { Regs.reset with state := .done, outWidth := 2 }).regs.height = State.reset.regs.height ∧
    (withRegs { Regs.reset with state := .done, outWidth := 2 }).regs.channels = State.reset.regs.channels ∧
    (withRegs { Regs.reset with state := .done, outWidth := 2 }).regs.depth = State.reset.regs.depth ∧
    (∃ t, exec (.wrCtrlStart 1) State.reset = .next t) ∧
    ∃ t, exec (.wrCtrlStart 1) (withRegs { Regs.reset with state := .done, outWidth := 2 }) = .next t :=
  ⟨by decide, by decide, rfl, rfl, rfl, rfl, ⟨_, rfl⟩, _, rfl⟩

theorem witness_OutputDimensionsChangeOnlyAtStartOrReset :
    (∃ t, step (given State.reset [.txn 0x11400000007#41]) = .next t) ∧
    (∀ l, (given State.reset [.txn 0x11400000007#41]).inputs ≠ .reset :: l) ∧
    ∀ w v l, (given State.reset [.txn 0x11400000007#41]).inputs = .txn w :: l → decodeTxn w ≠ .wrCtrlStart v :=
  ⟨⟨_, rfl⟩, (fun _ h => by cases h), (fun w v l h => by
    cases h
    exact fun h => Instr.noConfusion (show Instr.wrOutWidth 7 = .wrCtrlStart v from h))⟩

/-- The three cases of R104 at their bounds, in a 4 by 4 buffer at `(0, 0)`, `(0, 1)` and `(1, 1)`. -/
theorem witness_EmitAdvancesTheScan : (withRegs (runRegs 4 4 0 0 4 ⟨0, 0, 0⟩)).regs.state = .busy ∧
    (withRegs (runRegs 4 4 0 0 4 ⟨0, 0, 0⟩)).regs.k = 4 ∧
    (0 : Dim).toNat + 1 < (runRegs 4 4 0 0 4 ⟨0, 0, 0⟩).outWidth.toNat ∧
    (runRegs 4 4 0 1 4 ⟨0, 0, 0⟩).outWidth.toNat ≤ (1 : Dim).toNat + 1 ∧
    (0 : Dim).toNat + 1 < (runRegs 4 4 0 1 4 ⟨0, 0, 0⟩).outHeight.toNat ∧
    (runRegs 4 4 1 1 4 ⟨0, 0, 0⟩).outWidth.toNat ≤ (1 : Dim).toNat + 1 ∧
    (runRegs 4 4 1 1 4 ⟨0, 0, 0⟩).outHeight.toNat ≤ (1 : Dim).toNat + 1 := by decide

theorem witness_EffectiveAddressesStayInTheBuffers :
    (withRegs (runRegs 65535 65535 32766 32766 3 ⟨196605, 0, 1⟩)).Inv ∧
    (withRegs (runRegs 65535 65535 32766 32766 3 ⟨196605, 0, 1⟩)).regs.state = .busy := ⟨largest_inv, rfl⟩

/-- Section 2.5: the largest source and destination indices. -/
theorem test_largest_indices :
    (runRegs 65535 65535 32766 32766 3 ⟨0, 0, 0⟩).srcIndex 1 1 = 4294770688 ∧
    (runRegs 65535 65535 32766 32766 4 ⟨0, 0, 0⟩).dstIndex = 1073676288 := by decide

theorem witness_ConversionInBits : BitVec.extractLsb' 16 16 0x00020000#32 ≠ 0 ∧
    BitVec.extractLsb' 16 16 0x0000FFFF#32 = 0 ∧ (0x0003FFFC#32).toNat ≤ 0x3FFFC := by decide

theorem witness_AccumulatorWidthDoesNotMatter : 18 ≤ 18 := by decide

theorem witness_ReservedSelectorsAreFaults :
    (withRegs (runRegs 2 2 0 0 5 ⟨0, 0, 0⟩)).regs.state = .busy ∧
    4 < (withRegs (runRegs 2 2 0 0 5 ⟨0, 0, 0⟩)).regs.k.toNat ∧
    (withRegs (runRegs 2 2 0 0 5 ⟨0, 0, 0⟩)).inputs = [] := by decide

/-- A 2 by 2 buffer with sample `v` at its first pixel and `w` elsewhere. -/
def cornerBuffer (v w : Sample16) : PixelBuffer 16 where
  width := 2
  height := 2
  sample col row _ := if col = 0 ∧ row = 0 then v else w

/-- Sums on both sides of each bound of R83, a uniform block, small samples, and a buffer below another. -/
theorem witness_OutputSampleBounds :
    (cornerBuffer 255 0).blockSum 0 0 0 = 255 ∧ (cornerBuffer 256 0).blockSum 0 0 0 = 256 ∧
    (cornerBuffer 16322 16319).blockSum 0 0 0 = 65279 ∧ (cornerBuffer 16320 16320).blockSum 0 0 0 = 65280 ∧
    (∀ col row, (cornerBuffer 16320 16320).sample col row 0 = 16320) ∧
    (∀ col row, ((cornerBuffer 255 255).sample col row 0).toNat ≤ 255) ∧
    (∀ col row, ((cornerBuffer 3 3).sample col row 0).toNat ≤ ((cornerBuffer 4 4).sample col row 0).toNat) :=
  ⟨by decide, by decide, by decide, by decide, fun _ _ => ite_self _,
    fun _ _ => by rw [cornerBuffer]; simp only [ite_self]; decide,
    fun _ _ => by rw [cornerBuffer, cornerBuffer]; simp only [ite_self]; decide⟩

/-- Section 1, E5, and section 2.1: the sample function. -/
theorem test_outputSample : [0, 255, 256, 384, 511, 65279, 65280, 65536, 131072, 262140].map outputSample =
    [0, 0, 1, 1, 1, 254, 255, 255, 255, 255] := by decide

theorem witness_OddRowAndColumnAreDropped :
    0 < (transform { cornerBuffer 1 1 with width := 3, height := 3 }).width ∧
    0 < (transform { cornerBuffer 1 1 with width := 3, height := 3 }).height := by decide

theorem witness_OnlyEmitWritesAPixel : exec .emit lastStepState = .next lastStepState.emitStep ∧
    exec .rdStatus lastStepState = .next (lastStepState.readReply 1) ∧ 1 ≠ lastStepState.regs.dstIndex.toNat :=
  ⟨rfl, rfl, by decide⟩

/-- The run of program P3 at its first step, with the pixels of its block. -/
def oddState (m : Memory 48) : State := { withRegs (runRegs 3 3 0 0 0 ⟨0, 0, 0⟩) with src := m }

/-- The block of program P3 and, at index 2, a pixel of the dropped column. -/
def oddPixels (p : SrcPixel) : Memory 48 :=
  [(0, 0x012C00C80064), (1, 0x025801F40190), (2, p), (3, 0x0384032002BC), (4, 0x04B0044C03E8)]

theorem oddState_inv : (oddState (oddPixels 0xFFFFFFFFFFFF)).Inv where
  err := rfl
  halves := by decide
  noResult := by decide
  run _ := ⟨by decide, by decide, by decide, by decide, by decide, by decide⟩
  rest h := absurd rfl h
  src := by decide
  dst := by decide

theorem witness_DroppedPixelsAreNeverRead : (oddState (oddPixels 0xFFFFFFFFFFFF)).Inv ∧
    (oddState (oddPixels 0xFFFFFFFFFFFF)).regs.state = .busy ∧ (oddState (oddPixels 0xFFFFFFFFFFFF)).inputs = [] ∧
    oddPixels 0xFFFFFFFFFFFF ≠ oddPixels 0 ∧
    ∀ col row, col < 2 * (oddState (oddPixels 0xFFFFFFFFFFFF)).regs.outWidth.toNat →
      row < 2 * (oddState (oddPixels 0xFFFFFFFFFFFF)).regs.outHeight.toNat →
      (oddState (oddPixels 0xFFFFFFFFFFFF)).srcRead
          (BitVec.ofNat 32 (row * (oddState (oddPixels 0xFFFFFFFFFFFF)).regs.width.toNat + col)) =
        (oddState (oddPixels 0)).srcRead
          (BitVec.ofNat 32 (row * (oddState (oddPixels 0xFFFFFFFFFFFF)).regs.width.toNat + col)) := by
  refine ⟨oddState_inv, rfl, rfl, by decide, fun col row hc hr => ?_⟩
  have hc' : col < 2 := hc
  have hr' : row < 2 := hr
  interval_cases col <;> interval_cases row <;> rfl

theorem witness_EveryStepKeepsTheInvariant : busyState.Inv ∧ ∃ t, step busyState = .next t :=
  ⟨busyState_inv, _, rfl⟩

theorem witness_NoStepStopsUnderTheInvariant : lastStepState.Inv := lastStepState_inv

/-- The data of program P1 before its last step. -/
theorem lastStepState_data : lastStepState.DataOk where
  acc := by decide
  out _ _ _ _ h := absurd h (Nat.not_lt_zero _)

/-- Program P1 before its fourth step: three white pixels summed. -/
theorem witness_EveryStepKeepsTheDataOfARun :
    { lastStepState with regs := runRegs 2 2 0 0 3 ⟨196605, 196605, 196605⟩ }.Inv ∧
    { lastStepState with regs := runRegs 2 2 0 0 3 ⟨196605, 196605, 196605⟩ }.DataOk ∧
    { lastStepState with regs := runRegs 2 2 0 0 3 ⟨196605, 196605, 196605⟩ }.DutiesKept ∧
    ∃ t, step { lastStepState with regs := runRegs 2 2 0 0 3 ⟨196605, 196605, 196605⟩ } = .next t ∧
      t.regs.state = .busy :=
  ⟨{ err := rfl, halves := by decide, noResult := by decide,
     run := fun _ => ⟨by decide, by decide, by decide, by decide, by decide, by decide⟩,
     rest := fun h => absurd rfl h, src := by decide, dst := by decide },
   { acc := by decide, out := fun _ _ _ _ h => absurd h (Nat.not_lt_zero _) },
   (fun _ _ h => by cases h), _, rfl, rfl⟩

theorem witness_LastStepLeavesTheWholeOutput : lastStepState.Inv ∧ lastStepState.regs.state = .busy ∧
    lastStepState.DataOk ∧ lastStepState.DutiesKept ∧ ∃ t, step lastStepState = .next t ∧ t.regs.state = .done :=
  ⟨lastStepState_inv, rfl, lastStepState_data, (fun _ _ h => by cases h), _, rfl, rfl⟩

theorem witness_RunTakesFiveStepsPerPixel :
    ((1#32).getLsbD 0 = true ∧ State.reset.regs.state ≠ .busy ∧ State.reset.regs.channels = 3 ∧
      State.reset.regs.depth = 16 ∧ (withRegs errorRegs).regs.state ≠ .busy ∧ (withRegs errorRegs).regs.channels ≠ 3) ∧
    (lastStepState.Inv ∧ lastStepState.regs.state = .busy ∧ lastStepState.inputs = [] ∧
      lastStepState.regs.k.toNat = 4) ∧
    (busyState.Inv ∧ busyState.regs.state = .busy ∧ busyState.inputs = [] ∧ busyState.regs.k.toNat ≤ 3) ∧
    ((given busyState [.txn 0x00400000000#41]).regs.state = .busy ∧
      (given busyState [.txn 0x00400000000#41]).inputs = .txn 0x00400000000#41 :: [] ∧
      (.txn 0x00400000000#41 : HostAction) ≠ .coreTurn ∧ (.txn 0x00400000000#41 : HostAction) ≠ .reset) :=
  ⟨by decide, ⟨lastStepState_inv, rfl, rfl, rfl⟩, ⟨busyState_inv, rfl, rfl, by decide⟩, by decide⟩

theorem witness_EveryRunReachesDone : (given lastStepState [.writeDst 0 1, .txn 0x10000000001#41]).Inv ∧
    (given lastStepState [.writeDst 0 1, .txn 0x10000000001#41]).regs.state = .busy ∧
    .reset ∉ (given lastStepState [.writeDst 0 1, .txn 0x10000000001#41]).inputs := by
  refine ⟨?_, rfl, by decide⟩
  have h := lastStepState_inv
  exact ⟨h.err, h.halves, h.noResult, h.run, h.rest, h.src, h.dst⟩

theorem witness_ScanVisitsTheBlocksInRasterOrder : busyState.Inv ∧ busyState.regs.state = .busy ∧
    busyState.regs.y = 0 ∧ busyState.regs.x = 0 ∧ busyState.regs.k = 0 ∧ busyState.inputs = [] ∧ 4 < 5 ∧
    3 < busyState.regs.outWidth.toNat * busyState.regs.outHeight.toNat :=
  ⟨busyState_inv, rfl, rfl, rfl, rfl, rfl, by decide, by decide⟩

/-- What the outside does during the run of `wholeRun` before its last step: among the core turns a STATUS read, and a
write of the first location above each buffer. -/
def duringRun : List HostAction :=
  [.coreTurn, .writeSrc 6 0, .coreTurn, .txn 0x00400000000#41, .coreTurn, .writeDst 1 0, .coreTurn]

/-- A 2 by 3 buffer declared after reset, and START. -/
def wholeRun : State :=
  given (withRegs { Regs.reset with width := 2, height := 3 }) (.txn 0x10000000001#41 :: (duringRun ++ [.coreTurn]))

theorem wholeRun_inv : wholeRun.Inv where
  err := rfl
  halves := by decide
  noResult := by decide
  run h := absurd h (by decide)
  rest _ := ⟨by decide, by decide, by decide, by decide⟩
  src := by decide
  dst := by decide

theorem witness_RunComputesTheTransform : wholeRun.Inv ∧ wholeRun.regs.state ≠ .busy ∧ wholeRun.regs.channels = 3 ∧
    wholeRun.regs.depth = 16 ∧ 2 ≤ wholeRun.regs.width.toNat ∧ 2 ≤ wholeRun.regs.height.toNat ∧
    wholeRun.inputs = .txn 0x10000000001#41 :: (duringRun ++ [.coreTurn]) ∧
    decodeTxn 0x10000000001#41 = .wrCtrlStart 1 ∧
    (∀ a ∈ duringRun, a ≠ .reset ∧ a.KeepsBuffers (wholeRun.regs.width.toNat * wholeRun.regs.height.toNat)
      ((wholeRun.regs.width.toNat / 2) * (wholeRun.regs.height.toNat / 2))) ∧
    duringRun.count .coreTurn + 1 = 5 * (wholeRun.regs.width.toNat / 2) * (wholeRun.regs.height.toNat / 2) := by
  refine ⟨wholeRun_inv, by decide, rfl, rfl, by decide, by decide, rfl, by decide, ?_, by decide⟩
  intro a ha
  simp only [duringRun, List.mem_cons, List.not_mem_nil, or_false] at ha
  rcases ha with rfl | rfl | rfl | rfl | rfl | rfl | rfl
  all_goals exact ⟨by decide, by first | trivial | exact (by decide : (6 : Nat) ≤ 6) | exact (by decide : (1 : Nat) ≤ 1)⟩

theorem witness_HostCallSetsUpTheRun :
    (given State.reset (callActions [1, 2, 3, 4, 5, 6] 3 2)).regs.state ≠ .busy ∧
    2 ≤ (3 : HostWord).toNat ∧ (3 : HostWord).toNat < 65536 ∧ 2 ≤ (2 : HostWord).toNat ∧
    (2 : HostWord).toNat < 65536 ∧
    ([1, 2, 3, 4, 5, 6] : List SrcPixel).length = (3 : HostWord).toNat * (2 : HostWord).toNat ∧
    (State.reset.regs.channels = 3 ∧ State.reset.regs.depth = 16) ∧
    (given State.reset (callActions [1, 2, 3, 4, 5, 6] 3 2)).inputs = callActions [1, 2, 3, 4, 5, 6] 3 2 ∧
    (given State.reset (callActions [1, 2, 3, 4, 5, 6] 3 2 false)).inputs =
      callActions [1, 2, 3, 4, 5, 6] 3 2 false :=
  ⟨by decide, by decide, by decide, by decide, by decide, by decide, by decide, rfl, rfl⟩

/-- R138 with the STATUS values of R123, and IDLE. -/
theorem test_afterPoll : [0x00000001, 0x00000002, 0x00000023, 0x00000033, 0x00000000].map Call.afterPoll =
    [.waiting, .askingWidth, .failure 2, .failure 3, .noReturn] := by decide

/-- The Sink reads DST from 0 on (R138). -/
theorem test_askingHeight : (Call.askingHeight 2).hear (some (.rdata 1)) =
    .taking 2 1 [] (.readDst 0) [.readDst 1] := by decide

/-- The state that program P1 ends in: one white pixel. -/
def doneState : State :=
  { withRegs { runRegs 2 2 0 0 0 ⟨0, 0, 0⟩ with state := .done } with src := white, dst := [(0, 0xFFFFFF)] }

/-- One state for each value of STATE, and a DONE state with one output pixel. -/
theorem witness_HostReadsTheReturnOfACall :
    busyState.regs.state = .busy ∧ State.reset.regs.state = .idle ∧ (withRegs errorRegs).regs.state = .error ∧
    doneState.regs.state = .done ∧ 1 = doneState.regs.outWidth.toNat * doneState.regs.outHeight.toNat ∧
    (0 : Index).toNat < 1 ∧ (0x23#32).toNat % 4 = 3 ∧ (1#32).toNat % 4 = 1 ∧ (2#32).toNat % 4 = 2 ∧
    (0x30#32).toNat % 4 = 0 := by decide

/-- The invariant after reset. -/
theorem reset_inv : State.reset.Inv where
  err := rfl
  halves := by decide
  noResult := by decide
  run h := absurd h (by decide)
  rest _ := ⟨by decide, by decide, by decide, by decide⟩
  src := by decide
  dst := by decide

/-- A 2 by 2 call, with FORMAT written, and a 1 by 0 call without; the core has a turn during the hand-over. -/
theorem witness_HostCallReturnsTheTransform : State.reset.Inv ∧ State.reset.regs.state ≠ .busy ∧
    (State.reset.regs.channels = 3 ∧ State.reset.regs.depth = 16) ∧
    ((2 : HostWord).toNat < 65536 ∧ [(1 : SrcPixel), 2, 3, 4].length = (2 : HostWord).toNat * (2 : HostWord).toNat ∧
      Agent.reset ∉ (.core :: List.replicate 8 .host) ++ (List.replicate 5 .core ++ List.replicate 4 .host) ∧
      4 + 4 ≤ (Agent.core :: List.replicate 8 .host).count .host ∧
      5 * (((2 : HostWord).toNat / 2) * ((2 : HostWord).toNat / 2)) ≤ (List.replicate 5 Agent.core).count .core ∧
      ((2 : HostWord).toNat / 2) * ((2 : HostWord).toNat / 2) + 3 ≤ (List.replicate 4 Agent.host).count .host) ∧
    ([] : List SrcPixel).length = (1 : HostWord).toNat * (0 : HostWord).toNat ∧
    0 + 3 ≤ (List.replicate 3 Agent.host).count .host ∧
    5 * (((1 : HostWord).toNat / 2) * ((0 : HostWord).toNat / 2)) ≤ ([] : List Agent).count .core ∧
    ((1 : HostWord).toNat / 2) * ((0 : HostWord).toNat / 2) + 3 ≤ (List.replicate 3 Agent.host).count .host :=
  ⟨reset_inv, by decide, by decide, by decide, by decide, by decide, by decide, by decide⟩

/-- After a wrong FORMAT was written: a depth of 8, and four channels. -/
theorem witness_HostCallReportsARefusedFormat :
    (withRegs { Regs.reset with depth := 8 }).Inv ∧ (withRegs { Regs.reset with depth := 8 }).regs.state ≠ .busy ∧
    ¬ ((withRegs { Regs.reset with depth := 8 }).regs.channels = 3 ∧
      (withRegs { Regs.reset with depth := 8 }).regs.depth = 16) ∧
    (withRegs { Regs.reset with depth := 8 }).regs.channels = 3 ∧
    (withRegs errorRegs).regs.state ≠ .busy ∧ (withRegs errorRegs).regs.channels ≠ 3 ∧
    [(7 : SrcPixel)].length = (1 : HostWord).toNat * (1 : HostWord).toNat ∧
    Agent.reset ∉ .core :: List.replicate 5 .host ∧ 1 + 4 ≤ (Agent.core :: List.replicate 5 .host).count .host :=
  ⟨{ err := rfl, halves := by decide, noResult := by decide, run := fun h => absurd h (by decide),
     rest := fun _ => ⟨by decide, by decide, by decide, by decide⟩, src := by decide, dst := by decide },
   by decide, by decide, by decide, by decide, by decide, by decide, by decide, by decide⟩

/-! ### Other values of the parameters ACCW and DIMW (R5) -/

/-- The registers of program P1 in phase `k`, for any widths. -/
def widthRegs (accw dimw : Nat) (k : Selector) (acc : Lanes (Acc accw)) : Regs accw dimw :=
  { Regs.reset accw dimw with
    state := .busy, width := 2, height := 2, outWidth := 1, outHeight := 1, k := k, acc := acc }

/-- Program P1 in phase `k`, for any accumulator width. -/
def widthState (accw : Nat) (k : Selector) (acc : Lanes (Acc accw)) : State accw 16 32 :=
  { State.powerOn accw 16 32 with regs := widthRegs accw 16 k acc, src := white }

/-- Accumulators of 18 and of 64 bits, before the last ACC and, at the bound of R108, before EMIT. -/
theorem witness_EveryAccumulatorWidthStepsAlike : 18 ≤ 18 ∧ 18 ≤ 64 ∧
    (widthState 18 3 ⟨196605, 0, 7⟩).AgreesWith (widthState 64 3 ⟨196605, 0, 7⟩) ∧
    (widthState 18 3 ⟨196605, 0, 7⟩).regs.AccOk ∧
    (widthState 18 4 ⟨262140, 0, 7⟩).AgreesWith (widthState 64 4 ⟨262140, 0, 7⟩) ∧
    (widthState 18 4 ⟨262140, 0, 7⟩).regs.AccOk :=
  ⟨by decide, by decide, ⟨rfl, by decide⟩, fun _ => by decide, ⟨rfl, by decide⟩, fun _ => by decide⟩

/-- Both ends of the range of DIMW, outside a run and in one. -/
theorem witness_DimensionWidthIsAParameter : 1 ≤ 1 ∧ 32 ≤ 32 ∧ (State.powerOn 32 32 64).regs.state ≠ .busy ∧
    (State.powerOn 32 32 64).regs.channels = 3 ∧ (State.powerOn 32 32 64).regs.depth = 16 ∧
    (widthRegs 32 8 0 ⟨0, 0, 0⟩).state = .busy := by decide

/-- The last block of the largest 8-bit buffer. -/
theorem witness_AddressWidthFollowsFromTheDimensions :
    ∃ r : Regs 32 8, r = { widthRegs 32 8 0 ⟨0, 0, 0⟩ with
        width := 255, height := 255, outWidth := 127, outHeight := 127, x := 126, y := 126 } ∧
      r.outWidth.toNat = r.width.toNat / 2 ∧ r.outHeight.toNat = r.height.toNat / 2 ∧
      r.x.toNat < r.outWidth.toNat ∧ r.y.toNat < r.outHeight.toNat :=
  ⟨_, rfl, by decide, by decide, by decide, by decide⟩

/-- R129 with `DIMW` = 8: `wr WIDTH, 0x12345` stores the low 8 bits. -/
theorem test_wrWidth_of_eight_bits : execAt (.wrWidth 0x12345) (State.powerOn 32 8 16) =
    .next { State.powerOn 32 8 16 with regs := { Regs.reset 32 8 with width := 0x45 } } := rfl

/-- The last step of program P1 with accumulators of 18 bits: the white output pixel (section 2.1). -/
theorem test_emit_of_eighteen_bits :
    execAt .emit (widthState 18 4 ⟨262140, 262140, 262140⟩) =
      .next { widthState 18 0 ⟨0, 0, 0⟩ with
        regs := { widthRegs 18 16 0 ⟨0, 0, 0⟩ with state := .done }, dst := [(0, 0xFFFFFF)] } := rfl

end Sys2Proof.Tests
end

section
/-! PROOFS. The statements of 00_scope.md: the addresses and the dimension registers at any width (R5), the default
parameters, and the word that is placed for the next step (R8). -/

namespace Sys2Proof.Machine

open Sys2Proof

variable {accw dimw aw : Nat}

/-! ### Addresses in `2 * DIMW` bits (R5, R102) -/

/-- The raster index of a position inside a buffer of `h` rows of `w` pixels lies inside the buffer. -/
theorem rasterIndex_lt {row col h w : Nat} (hrow : row < h) (hcol : col < w) : row * w + col < h * w :=
  calc row * w + col < row * w + w := by omega
    _ = (row + 1) * w := (Nat.succ_mul row w).symm
    _ ≤ h * w := Nat.mul_le_mul_right w hrow

/-- An index inside a buffer whose two dimensions have `DIMW` bits has `2 * DIMW` bits. -/
theorem mod_twice_dimw {h w : Dim dimw} {i : Nat} (hi : i < h.toNat * w.toNat) : i % 2 ^ (2 * dimw) = i := by
  apply Nat.mod_eq_of_lt
  calc i < h.toNat * w.toNat := hi
    _ ≤ 2 ^ dimw * 2 ^ dimw := Nat.mul_le_mul h.isLt.le w.isLt.le
    _ = 2 ^ (2 * dimw) := by rw [two_mul, pow_add]

/-- The pixel `d` (0 or 1) of block `i`, of the blocks of two pixels that a dimension `n` has room for, lies inside the
dimension: an odd last row or column is in no block. -/
theorem blockPixel_lt {i n : Nat} (hi : i < n / 2) (d : BitVec 1) : 2 * i + d.toNat < n := by
  have hd := d.isLt
  omega

/-- Settles O58: each index is the raster index of a position inside its buffer, so the `2 * DIMW` bits do not wrap. -/
theorem addressWidthFollowsFromTheDimensions : Obligations.AddressWidthFollowsFromTheDimensions := by
  intro accw dimw r how hoh hx hy
  refine ⟨fun dx dy => ?_, ?_⟩
  · have hin : (2 * r.y.toNat + dy.toNat) * r.width.toNat + (2 * r.x.toNat + dx.toNat) <
        r.height.toNat * r.width.toNat :=
      rasterIndex_lt (blockPixel_lt (hoh ▸ hy) dy) (blockPixel_lt (how ▸ hx) dx)
    rw [Regs.srcIndex_toNat, mod_twice_dimw hin]
    exact ⟨rfl, hin⟩
  · have hin : r.y.toNat * r.outWidth.toNat + r.x.toNat < r.outHeight.toNat * r.outWidth.toNat :=
      rasterIndex_lt hy hx
    rw [Regs.dstIndex_toNat, mod_twice_dimw hin]
    exact ⟨rfl, hin⟩

/-! ### A word placed for the next step (R8; log entry 6) -/

/-- A 41-bit word, in whole bytes, is presented as a transaction. -/
theorem State.withFetchWord_txn (s : State) {w : Nat} (h : w < 2 ^ 41) :
    s.withFetchWord 48 w = s.setInputs (.txn (BitVec.ofNat 41 w) :: s.inputs) := by
  have he : encodedOfBits 48 w = .ok (.txn (BitVec.ofNat 41 w)) := (if_pos (.inr rfl)).trans (if_pos h)
  unfold State.withFetchWord
  rw [he]
  rfl

/-- A 3-bit selector, in a whole byte, is placed in K of a core that is BUSY and has the turn. -/
theorem State.withFetchWord_uop (s : State) {w : Nat} (h : w < 2 ^ 3) :
    s.withFetchWord 8 w =
      (s.setRegs { s.regs with state := .busy, k := BitVec.ofNat 3 w }).setInputs (.coreTurn :: s.inputs) := by
  have he : encodedOfBits 8 w = .ok (.uop (BitVec.ofNat 3 w)) :=
    (if_neg (by decide)).trans ((if_pos (.inr rfl)).trans (if_pos h))
  unfold State.withFetchWord
  rw [he]
  rfl

/-- A step in which a BUSY core is given the turn: the micro-operation that K selects (R57, R100, R101). -/
theorem step_coreTurn_busy {s : State} {l : List HostAction} (h : s.inputs = .coreTurn :: l)
    (hb : s.regs.state = .busy) : step s = exec (decodeSelector s.regs.k) (s.setInputs l) := by
  have hn : nextTurn s = coreTurn (s.setInputs l) := by
    unfold nextTurn
    rw [h]
  unfold step
  rw [hn, coreTurn_busy (s := s.setInputs l) hb, State.setInputs_regs]

/-- Settles O9, one length of word at a time. -/
theorem placedWordIsTheNextInstruction : Obligations.PlacedWordIsTheNextInstruction := by
  refine fun s => ⟨fun w hw => ?txn, fun w hw => ?uop⟩
  case txn =>
    rw [s.withFetchWord_txn hw, step_txn (State.setInputs_inputs s _)]
    rfl
  case uop =>
    rw [s.withFetchWord_uop hw, step_coreTurn_busy (State.setInputs_inputs _ _) rfl]
    rfl

/-! ### The default parameters (R5) -/

/-- Settles O55, by the agreement of the two dispatches on every constructor. -/
theorem defaultParametersGiveTheCore : Obligations.DefaultParametersGiveTheCore := by
  have hstep : (stepAt : State → Host.Outcome State Fault Refusal) = step :=
    funext fun s => (step_eq_stepAt s).symm
  refine ⟨?_, fun s => (step_eq_stepAt s).symm, fun i s => (exec_eq_execAt i s).symm⟩
  calc coreAt 32 16
      = { State := State, Fault := Fault, Refusal := Refusal, step := stepAt, reset := State.reset } := rfl
    _ = Sys2Proof.core := by rw [hstep]; rfl

/-! ### Dimension registers of `DIMW` bits (R5) -/

/-- A dimension of at most 32 bits is read as its number (R56). -/
theorem dimWord_toNat (h : dimw ≤ 32) (d : Dim dimw) : (dimWord d).toNat = d.toNat :=
  BitVec.toNat_setWidth_of_le h

/-- START outside a run with the format that it accepts (R127). -/
theorem State.start_accepted {s : State accw dimw aw} (hb : s.regs.state ≠ .busy) (hc : s.regs.channels = 3)
    (hd : s.regs.depth = 16) : s.start = s.beginRun := by
  rcases s.start_cases with ⟨h, _⟩ | ⟨_, h, _⟩ | ⟨_, _, h, _⟩ | ⟨_, _, _, h⟩
  · exact absurd h hb
  · exact absurd hc h
  · exact absurd hd h
  · exact h

/-- Settles O57, from the number that each field and each reply stands for. -/
theorem dimensionWidthIsAParameter : Obligations.DimensionWidthIsAParameter := by
  intro accw dimw aw v s _ hle
  refine ⟨fun hb => ⟨?width, ?height, fun hc hd => ?start⟩, ?reads⟩
  case width =>
    refine ⟨dimField v dimw, dimField_toNat v dimw, ?_⟩
    rw [execAt, execWrWidth, State.configWrite_idle _ hb]
    rfl
  case height =>
    refine ⟨dimField v dimw, dimField_toNat v dimw, ?_⟩
    rw [execAt, execWrHeight, State.configWrite_idle _ hb]
    rfl
  case start =>
    refine ⟨s.beginRun, ?_, half_toNat s.regs.width, half_toNat s.regs.height⟩
    rw [execAt, execWrCtrlStart, State.start_accepted hb hc hd]
  case reads =>
    exact ⟨dimWord s.regs.width, dimWord s.regs.height, dimWord s.regs.outWidth, dimWord s.regs.outHeight,
      dimWord_toNat hle _, dimWord_toNat hle _, dimWord_toNat hle _, dimWord_toNat hle _, rfl, rfl, rfl, rfl⟩

end Sys2Proof.Machine
end

section
/-! PROOFS. The statements of 10_state.md: the values after reset (R10, R29), what each operation leaves unchanged (R17,
R18, R23), and machines whose accumulators have different widths (R16). -/

namespace Sys2Proof.Machine

open Sys2Proof

variable {accw dimw aw : Nat}

/-! ### After reset (R10, R29) -/

/-- Settles O12: the registers are the reset column by definition, and the two read words are computed from them. -/
theorem resetLeavesTheSpecifiedValues : Obligations.ResetLeavesTheSpecifiedValues := by
  have hstatus : State.reset.regs.statusWord = 0x00000000 := by decide
  have hformat : State.reset.regs.formatWord = 0x00001003 := by decide
  refine ⟨rfl, Memory.read_nil, Memory.read_nil, ?_, ?_⟩
  · rw [exec, execRdStatus, hstatus]
    rfl
  · rw [exec, execRdFormat, hformat]
    rfl

/-- The scan is at rest after reset (R108). -/
theorem Regs.reset_restOk : (Regs.reset : Regs).RestOk := ⟨rfl, rfl, rfl, rfl⟩

/-- Settles O42: no run is in progress, so the registers are at rest and the bounds of a run are not asked for. -/
theorem resetSatisfiesTheInvariant : Obligations.ResetSatisfiesTheInvariant where
  err := rfl
  halves := ⟨Nat.zero_le _, Nat.zero_le _⟩
  noResult _ := ⟨rfl, rfl⟩
  run hbusy := absurd hbusy RunState.noConfusion
  rest _ := Regs.reset_restOk
  src := State.reset_memories_wf.1
  dst := State.reset_memories_wf.2

/-! ### What the operations leave unchanged -/

/-- The advance writes the scan position and STATE only (R104). -/
theorem Regs.advance_eq (r : Regs accw dimw) :
    r.advance = { r with k := 0, x := r.advance.x, y := r.advance.y, state := r.advance.state } := by
  rcases r.advance_cases with ⟨_, h⟩ | ⟨_, _, h⟩ | ⟨_, _, h⟩ <;> rw [h]

/-- An EMIT step leaves the output dimensions (R17, R18). -/
theorem State.emitStep_outDims (s : State accw dimw aw) :
    s.emitStep.regs.outWidth = s.regs.outWidth ∧ s.emitStep.regs.outHeight = s.regs.outHeight := by
  rw [State.emitStep_regs, Regs.advance_eq]
  exact ⟨rfl, rfl⟩

/-- An EMIT step clears the phase and the accumulators (R92, R104). -/
theorem State.emitStep_cleared (s : State accw dimw aw) :
    s.emitStep.regs.k = 0 ∧ s.emitStep.regs.acc = ⟨0, 0, 0⟩ := by
  rw [State.emitStep_regs, Regs.advance_eq]
  exact ⟨rfl, rfl⟩

/-- A configuration write is dropped, or the registers are the ones given (R125). -/
theorem State.configWrite_cases (s : State accw dimw aw) (r : Regs accw dimw) :
    (s.regs.state = .busy ∧ s.configWrite r = s) ∨ (s.regs.state ≠ .busy ∧ s.configWrite r = s.setRegs r) := by
  by_cases hb : s.regs.state = .busy
  · exact .inl ⟨hb, s.configWrite_busy r hb⟩
  · exact .inr ⟨hb, s.configWrite_idle r hb⟩

/-- A host transaction other than START leaves the output dimensions (R17, R18, R45). -/
theorem exec_txn_outDims {w : TxnWord} {s t : State} (h : exec (decodeTxn w) s = .next t)
    (hstart : ∀ v, decodeTxn w ≠ .wrCtrlStart v) :
    t.regs.outWidth = s.regs.outWidth ∧ t.regs.outHeight = s.regs.outHeight := by
  rcases exec_txn_cases h with ⟨v, rfl⟩ | ⟨wd, ht, ch, dp, rfl⟩ | ⟨v, hv, _⟩ | rfl
  · exact ⟨rfl, rfl⟩
  · rcases s.configWrite_cases { s.regs with width := wd, height := ht, channels := ch, depth := dp } with
      ⟨_, he⟩ | ⟨_, he⟩ <;> rw [he] <;> exact ⟨rfl, rfl⟩
  · exact absurd hv (hstart v)
  · exact ⟨rfl, rfl⟩

/-- Settles O30, by what a step can do. -/
theorem outputDimensionsChangeOnlyAtStartOrReset : Obligations.OutputDimensionsChangeOnlyAtStartOrReset := by
  intro s t h hreset hstart
  rcases step_cases h with ⟨s', hs', hcore⟩ | ⟨w, l, hi, hx⟩ | ⟨a, p, l, _, rfl⟩ | ⟨a, l, _, rfl⟩ |
    ⟨a, v, l, _, rfl⟩ | ⟨a, l, _, rfl⟩ | ⟨l, hi, _⟩
  case inl =>
    have hregs : s'.regs = s.regs := by
      rcases hs' with ⟨rfl, _⟩ | ⟨l, _, rfl⟩ <;> rfl
    rw [← hregs]
    rcases hcore with ⟨_, rfl⟩ | ⟨_, _, rfl⟩ | ⟨_, _, rfl⟩
    · exact ⟨rfl, rfl⟩
    · exact ⟨rfl, rfl⟩
    · exact s'.emitStep_outDims
  case inr.inl => exact exec_txn_outDims (s := s.setInputs l) hx fun v => hstart w v l hi
  case inr.inr.inr.inr.inr.inr => exact absurd hi (hreset l)
  all_goals exact ⟨rfl, rfl⟩

/-- What an operation writes: the registers, or one reply, or, for EMIT, one pixel of DST besides the registers. -/
theorem exec_writes {i : Instr} {s t : State} (h : exec i s = .next t) :
    (∃ r, t = s.setRegs r) ∨ (∃ v, t = s.readReply v) ∨ (i = .emit ∧ t = s.emitStep) := by
  rcases exec_cases h with ⟨v, hv⟩ | ⟨wd, ht, ch, dp, hc⟩ | ⟨v, _, hst⟩ | hs | ⟨dx, dy, _, ha⟩ | hemit
  · exact .inr (.inl ⟨v, hv⟩)
  · rcases s.configWrite_cases { s.regs with width := wd, height := ht, channels := ch, depth := dp } with
      ⟨_, he⟩ | ⟨_, he⟩
    · exact .inl ⟨s.regs, hc.trans he⟩
    · exact .inl ⟨_, hc.trans he⟩
  · exact .inl ⟨_, hst.trans s.start_eq⟩
  · exact .inl ⟨s.regs, hs⟩
  · exact .inl ⟨_, ha.trans (s.accStep_eq dx dy)⟩
  · exact .inr (.inr hemit)

/-- Settles O40: EMIT is the one operation that writes DST, and a write leaves the other locations. -/
theorem onlyEmitWritesAPixel : Obligations.OnlyEmitWritesAPixel := by
  intro i s t h
  rcases exec_writes h with ⟨r, rfl⟩ | ⟨v, rfl⟩ | ⟨hi, rfl⟩
  · exact ⟨rfl, rfl, rfl, fun _ => rfl, fun _ _ _ => rfl⟩
  · exact ⟨rfl, rfl, rfl, fun _ => rfl, fun _ _ _ => rfl⟩
  · refine ⟨rfl, rfl, rfl, fun hne => absurd hi hne, fun _ a ha => ?_⟩
    rw [State.emitStep_dst, Memory.read_write_other _ _ ha]

/-! ### Accumulators of 18 bits or more (R16) -/

/-- A sample added to a sum of at most three does not wrap in 18 bits or more (R16). -/
theorem accLane_toNat_of_le (hw : 18 ≤ accw) {a : Acc accw} (ha : a.toNat ≤ 3 * 65535) (v : Sample16) :
    (accLane a v).toNat = a.toNat + v.toNat := by
  have hpow : 2 ^ 18 ≤ 2 ^ accw := Nat.pow_le_pow_right (by decide) hw
  have hv := v.isLt
  rw [accLane_toNat, Nat.mod_eq_of_lt (by omega)]

/-- Four samples added to a cleared accumulator of 18 bits or more give their exact sum. -/
theorem accLane_four_toNat (hw : 18 ≤ accw) (a b c d : Sample16) :
    (accLane (accLane (accLane (accLane (0 : Acc accw) a) b) c) d).toNat =
      a.toNat + b.toNat + c.toNat + d.toNat := by
  have ha := a.isLt
  have hb := b.isLt
  have hc := c.isLt
  have h0 : (0 : Acc accw).toNat = 0 := BitVec.toNat_zero
  have h1 : (accLane (0 : Acc accw) a).toNat = a.toNat := by
    rw [accLane_toNat_of_le hw (by omega), h0, Nat.zero_add]
  have h2 : (accLane (accLane (0 : Acc accw) a) b).toNat = a.toNat + b.toNat := by
    rw [accLane_toNat_of_le hw (by omega), h1]
  have h3 : (accLane (accLane (accLane (0 : Acc accw) a) b) c).toNat = a.toNat + b.toNat + c.toNat := by
    rw [accLane_toNat_of_le hw (by omega), h2]
  rw [accLane_toNat_of_le hw (by omega), h3]

/-- The output sample depends on the number that the accumulator holds and not on its width (R92). -/
theorem emitLane_eq_of_toNat_eq {m n : Nat} {a : BitVec m} {b : BitVec n} (h : a.toNat = b.toNat) :
    emitLane a = emitLane b := by
  apply BitVec.eq_of_toNat_eq
  rw [emitLane_toNat, emitLane_toNat, h]

/-- Settles O36: both widths hold the exact sum. -/
theorem accumulatorWidthDoesNotMatter : Obligations.AccumulatorWidthDoesNotMatter := by
  intro n a b c d hn
  have hsum := accLane_four_toNat hn a b c d
  exact ⟨hsum, emitLane_eq_of_toNat_eq (hsum.trans (accLane_four_toNat (by decide) a b c d).symm)⟩

end Sys2Proof.Machine
end

section
/-! PROOFS. Every accumulator width of 18 or more gives the same behaviour (10_state.md R16, 00_scope.md R5): a simulation
of two machines that hold the same numbers, with one rule for each operation. -/

namespace Sys2Proof.Machine

open Sys2Proof

variable {accw dimw aw : Nat}

/-! ### The bound of R108 on the accumulators -/

/-- Outside a run nothing is asked. -/
theorem Regs.accOk_of_not_busy {r : Regs accw dimw} (h : r.state ≠ .busy) : r.AccOk := fun hb => absurd hb h

/-- Cleared accumulators meet the bound, in a phase that has an operation. -/
theorem Regs.accOk_of_cleared {r : Regs accw dimw} (hk : r.k = 0) (hacc : r.acc = ⟨0, 0, 0⟩) : r.AccOk := by
  refine fun _ => ⟨?_, fun c => ?_⟩
  · rw [hk]
    exact Nat.zero_le _
  · rw [hacc, Lanes.get_same]
    exact BitVec.toNat_zero.le.trans (Nat.zero_le _)

/-- START leaves the bound (R127). -/
theorem State.start_accOk {s : State accw dimw aw} (hok : s.regs.AccOk) : s.start.regs.AccOk := by
  rcases s.start_cases with ⟨_, h⟩ | ⟨_, _, h⟩ | ⟨_, _, _, h⟩ | ⟨_, _, _, h⟩ <;> rw [h]
  · exact hok
  all_goals exact Regs.accOk_of_cleared rfl rfl

/-- A host transaction leaves the bound. -/
theorem execAt_txn_accOk {w : TxnWord} {s t : State accw dimw aw} (h : execAt (decodeTxn w) s = .next t)
    (hok : s.regs.AccOk) : t.regs.AccOk := by
  rcases execAt_txn_cases h with ⟨v, rfl⟩ | ⟨wd, ht, ch, dp, rfl⟩ | ⟨v, _, rfl⟩ | rfl
  · exact hok
  · rcases s.configWrite_cases { s.regs with width := wd, height := ht, channels := ch, depth := dp } with
      ⟨_, he⟩ | ⟨hb, he⟩ <;> rw [he]
    · exact hok
    · exact Regs.accOk_of_not_busy hb
  · exact State.start_accOk hok
  · exact hok

/-- An ACC step moves the bound on with the phase: a sample is at most 65535 (R91, R103). -/
theorem State.accStep_accOk {s : State accw dimw aw} (hb : s.regs.state = .busy) (hk : s.regs.k.toNat ≤ 3)
    (hok : s.regs.AccOk) (dx dy : BitVec 1) : (s.accStep dx dy).regs.AccOk := by
  have hk1 : (s.regs.k + 1).toNat = s.regs.k.toNat + 1 := by
    rw [BitVec.toNat_add]
    exact Nat.mod_eq_of_lt (show s.regs.k.toNat + 1 < 8 by omega)
  rw [State.accStep_regs]
  refine fun _ => ⟨hk1.trans_le (by omega), fun c => ?_⟩
  rw [accumulate_get, accLane_toNat, hk1]
  have hc := (hok hb).2 c
  have hv := (chan16 (s.srcRead (s.regs.srcIndex dx dy aw)) c).isLt
  exact (Nat.mod_le _ _).trans (by omega)

/-- Every step keeps the bound. -/
theorem stepAt_accOk {s t : State accw dimw aw} (h : stepAt s = .next t) (hok : s.regs.AccOk) : t.regs.AccOk := by
  rcases stepAt_cases h with ⟨s', hs', hcore⟩ | ⟨w, l, _, hx⟩ | ⟨a, p, l, _, rfl⟩ | ⟨a, l, _, rfl⟩ |
    ⟨a, v, l, _, rfl⟩ | ⟨a, l, _, rfl⟩ | ⟨l, _, rfl⟩
  case inl =>
    have hok' : s'.regs.AccOk := by
      rcases hs' with ⟨rfl, _⟩ | ⟨l, _, rfl⟩ <;> exact hok
    rcases hcore with ⟨_, rfl⟩ | ⟨hb, hk, rfl⟩ | ⟨_, _, rfl⟩
    · exact hok'
    · exact State.accStep_accOk hb hk hok' _ _
    · exact Regs.accOk_of_cleared s'.emitStep_cleared.1 s'.emitStep_cleared.2
  case inr.inl => exact execAt_txn_accOk (s := s.setInputs l) hx hok
  case inr.inr.inr.inr.inr.inr => exact Regs.accOk_of_cleared rfl rfl
  all_goals exact hok

/-! ### Two machines that hold the same numbers: one rule for each operation -/

section Agreement

variable {a b : Nat} {s : State a dimw aw} {t : State b dimw aw}

/-- The machine with other accumulators, of any width. -/
def State.withAcc (s : State a dimw aw) (acc : Lanes (Acc b)) : State b dimw aw :=
  { s with regs := { s.regs with acc := acc } }

/-- Two machines agree exactly where the second is the first with other accumulators that hold the same numbers. -/
theorem State.agreesWith_iff : s.AgreesWith t ↔
    ∃ acc : Lanes (Acc b), t = s.withAcc acc ∧ ∀ c, (acc.get c).toNat = (s.regs.acc.get c).toNat := by
  constructor
  · exact fun h => ⟨t.regs.acc, h.same, h.acc⟩
  · rintro ⟨acc, rfl, hacc⟩
    exact ⟨rfl, hacc⟩

/-- Agreement is in particular the same outside actions. -/
theorem State.AgreesWith.inputs (h : s.AgreesWith t) : t.inputs = s.inputs := by
  obtain ⟨acc, rfl, _⟩ := State.agreesWith_iff.1 h
  rfl

/-- Agreement is in particular the same STATE. -/
theorem State.AgreesWith.state (h : s.AgreesWith t) : t.regs.state = s.regs.state := by
  obtain ⟨acc, rfl, _⟩ := State.agreesWith_iff.1 h
  rfl

/-- Agreement is in particular the same phase. -/
theorem State.AgreesWith.k (h : s.AgreesWith t) : t.regs.k = s.regs.k := by
  obtain ⟨acc, rfl, _⟩ := State.agreesWith_iff.1 h
  rfl

/-- The action performed is taken from both lists. -/
theorem State.AgreesWith.setInputs (h : s.AgreesWith t) (l : List (HostAction aw)) :
    (s.setInputs l).AgreesWith (t.setInputs l) := by
  obtain ⟨acc, rfl, hacc⟩ := State.agreesWith_iff.1 h
  exact ⟨rfl, hacc⟩

/-- A configuration write is dropped on both or on neither. -/
theorem State.AgreesWith.configWrite (h : s.AgreesWith t) {r : Regs a dimw} {q : Regs b dimw}
    (hr : (s.setRegs r).AgreesWith (t.setRegs q)) : (s.configWrite r).AgreesWith (t.configWrite q) := by
  by_cases hb : s.regs.state = .busy
  · rw [State.configWrite_busy r hb, State.configWrite_busy q (h.state.trans hb)]
    exact h
  · rw [State.configWrite_idle r hb, State.configWrite_idle q (h.state ▸ hb)]
    exact hr

/-- Registers with cleared accumulators hold the same numbers. -/
theorem State.agreesWith_withAcc_cleared (h : s.regs.acc = ⟨0, 0, 0⟩) :
    s.AgreesWith (s.withAcc (⟨0, 0, 0⟩ : Lanes (Acc b))) := by
  refine ⟨rfl, fun c => ?_⟩
  have hl : (s.withAcc (⟨0, 0, 0⟩ : Lanes (Acc b))).regs.acc = ⟨0, 0, 0⟩ := rfl
  rw [h, hl, Lanes.get_same, Lanes.get_same]
  exact BitVec.toNat_zero.trans BitVec.toNat_zero.symm

/-- START checks the same declared format and clears the accumulators, or is ignored by both (R127, R137). -/
theorem State.AgreesWith.start (h : s.AgreesWith t) : s.start.AgreesWith t.start := by
  obtain ⟨acc, rfl, _⟩ := State.agreesWith_iff.1 h
  have hformat : (s.withAcc acc).regs.formatError = s.regs.formatError := rfl
  unfold State.start
  by_cases hb : s.regs.state = .busy
  · rw [if_pos hb, if_pos (h.state.trans hb)]
    exact h
  · rw [if_neg hb, if_neg (h.state ▸ hb), hformat]
    cases s.regs.formatError with
    | some code => exact State.agreesWith_withAcc_cleared (s := s.raise code) rfl
    | none => exact State.agreesWith_withAcc_cleared (s := s.beginRun) rfl

/-- The reset input clears everything (R160). -/
theorem State.AgreesWith.resetRegs (h : s.AgreesWith t) : s.resetRegs.AgreesWith t.resetRegs := by
  obtain ⟨acc, rfl, _⟩ := State.agreesWith_iff.1 h
  exact State.agreesWith_withAcc_cleared (s := s.resetRegs) rfl

/-- ACC reads the same pixel and adds it without wrapping, as at most three samples are in the accumulators (R91). -/
theorem State.AgreesWith.accStep (ha : 18 ≤ a) (hb : 18 ≤ b) (h : s.AgreesWith t)
    (hle : ∀ c, (s.regs.acc.get c).toNat ≤ 3 * 65535) (dx dy : BitVec 1) :
    (s.accStep dx dy).AgreesWith (t.accStep dx dy) := by
  obtain ⟨acc, rfl, hacc⟩ := State.agreesWith_iff.1 h
  refine ⟨rfl, fun c => ?_⟩
  rw [State.accStep_regs, State.accStep_regs, accumulate_get, accumulate_get, accLane_toNat_of_le ha (hle c),
    accLane_toNat_of_le hb ((h.acc c).trans_le (hle c)), h.acc c]
  rfl

/-- The output pixel depends on the numbers that the accumulators hold and not on their width (R92). -/
theorem emitPixel_eq_of_toNat_eq {k : Lanes (Acc a)} {l : Lanes (Acc b)}
    (h : ∀ c, (l.get c).toNat = (k.get c).toNat) : emitPixel l = emitPixel k := by
  have hlane : (fun c => emitLane (l.get c)) = fun c => emitLane (k.get c) :=
    funext fun c => emitLane_eq_of_toNat_eq (h c)
  rw [emitPixel, hlane, emitPixel]

/-- The advance does not look at the accumulators (R104). -/
theorem Regs.advance_withAcc (r : Regs a dimw) (acc : Lanes (Acc b)) :
    Regs.advance { r with acc := acc } = { r.advance with acc := acc } := by
  unfold Regs.advance
  dsimp only
  split
  · rfl
  · split <;> rfl

/-- EMIT writes the same pixel at the same address, clears the accumulators and advances alike (R92, R104). -/
theorem State.AgreesWith.emitStep (h : s.AgreesWith t) : s.emitStep.AgreesWith t.emitStep := by
  obtain ⟨acc, rfl, hacc⟩ := State.agreesWith_iff.1 h
  have hdst : (s.withAcc acc).emitStep.dst = s.emitStep.dst := by
    rw [State.emitStep_dst, State.emitStep_dst, emitPixel_eq_of_toNat_eq h.acc]
    rfl
  have hregs : (s.withAcc acc).emitStep.regs =
      { s.emitStep.regs with acc := (⟨0, 0, 0⟩ : Lanes (Acc b)) } := by
    rw [State.emitStep_regs, State.emitStep_regs, ← Regs.advance_withAcc]
    rfl
  have heq : (s.withAcc acc).emitStep = s.emitStep.withAcc (⟨0, 0, 0⟩ : Lanes (Acc b)) := by
    rw [State.emitStep_eq (s.withAcc acc), hdst, hregs]
    rfl
  rw [heq]
  exact State.agreesWith_withAcc_cleared s.emitStep_cleared.2

/-! ### Two machines that hold the same numbers: one step -/

/-- Two answers are next states that hold the same numbers. -/
def AnswersAlike (o : Result a dimw aw) (p : Result b dimw aw) : Prop :=
  ∃ s' t', o = .next s' ∧ p = .next t' ∧ s'.AgreesWith t'

/-- A transaction is answered alike: what it reads and tests is the same on both machines, and it adds nothing to the
accumulators. -/
theorem execAt_txn_alike (h : s.AgreesWith t) (w : TxnWord) :
    AnswersAlike (execAt (decodeTxn w) s) (execAt (decodeTxn w) t) := by
  obtain ⟨s', hs'⟩ := execAt_txn_next w s
  obtain ⟨hacc, hemit⟩ := decodeTxn_not_uop w
  obtain ⟨acc, rfl, hn⟩ := State.agreesWith_iff.1 h
  cases hi : decodeTxn w with
  | wrCtrlStart v => exact ⟨_, _, rfl, rfl, h.start⟩
  | wrWidth v => exact ⟨_, _, rfl, rfl, h.configWrite ⟨rfl, hn⟩⟩
  | wrHeight v => exact ⟨_, _, rfl, rfl, h.configWrite ⟨rfl, hn⟩⟩
  | wrFormat v => exact ⟨_, _, rfl, rfl, h.configWrite ⟨rfl, hn⟩⟩
  | acc dx dy => exact absurd hi (hacc dx dy)
  | emit => exact absurd hi hemit
  | reservedSel5 | reservedSel6 | reservedSel7 =>
    rw [hi] at hs'
    cases hs'
  | _ => exact ⟨_, _, rfl, rfl, rfl, hn⟩

/-- What a turn answers. -/
def Turn.answer : Turn accw dimw aw → Result accw dimw aw
  | .perform i s => execAt i s
  | .rest s => .next s

/-- A step answers what the next turn does. -/
theorem stepAt_eq_answer (s : State accw dimw aw) : stepAt s = (nextTurn s).answer := by
  unfold stepAt
  cases nextTurn s <;> rfl

/-- The core's turn is answered alike under the bound of R108, which leaves no phase without an operation. -/
theorem coreTurn_alike (ha : 18 ≤ a) (hb : 18 ≤ b) (h : s.AgreesWith t) (hok : s.regs.AccOk) :
    AnswersAlike (coreTurn s).answer (coreTurn t).answer := by
  by_cases hbusy : s.regs.state = .busy
  · obtain ⟨hk, hacc⟩ := hok hbusy
    rw [coreTurn_busy hbusy, coreTurn_busy (h.state.trans hbusy), h.k]
    rcases decodeSelector_casesAt a dimw aw s.regs.k with ⟨hk3, hd⟩ | ⟨_, hd⟩ | ⟨hk5, _⟩
    · have hle (c : Fin 3) : (s.regs.acc.get c).toNat ≤ 3 * 65535 :=
        (hacc c).trans (Nat.mul_le_mul_right _ hk3)
      rw [hd]
      exact ⟨_, _, rfl, rfl, h.accStep ha hb hle _ _⟩
    · rw [hd]
      exact ⟨_, _, rfl, rfl, h.emitStep⟩
    · omega
  · rw [coreTurn_rest hbusy, coreTurn_rest (h.state ▸ hbusy)]
    exact ⟨s, t, rfl, rfl, h⟩

/-- A step is answered alike, whichever agent takes it. -/
theorem stepAt_alike (ha : 18 ≤ a) (hb : 18 ≤ b) (h : s.AgreesWith t) (hok : s.regs.AccOk) :
    AnswersAlike (stepAt s) (stepAt t) := by
  rw [stepAt_eq_answer, stepAt_eq_answer]
  unfold nextTurn
  rw [h.inputs]
  cases s.inputs with
  | nil => exact coreTurn_alike ha hb h hok
  | cons act l =>
    have hl := h.setInputs l
    cases act with
    | coreTurn => exact coreTurn_alike ha hb hl hok
    | txn w => exact execAt_txn_alike hl w
    | reset => exact ⟨_, _, rfl, rfl, hl.resetRegs⟩
    | writeSrc | readSrc | writeDst | readDst =>
      obtain ⟨acc, rfl, hn⟩ := State.agreesWith_iff.1 h
      exact ⟨_, _, rfl, rfl, rfl, hn⟩

/-- One step of the simulation: both machines answer, and they go on holding the same numbers within the bound. -/
theorem stepAt_simulates (ha : 18 ≤ a) (hb : 18 ≤ b) (h : s.AgreesWith t) (hok : s.regs.AccOk) :
    ∃ s' t', stepAt s = .next s' ∧ stepAt t = .next t' ∧ s'.AgreesWith t' ∧ s'.regs.AccOk := by
  obtain ⟨s', t', hs, ht, hst⟩ := stepAt_alike ha hb h hok
  exact ⟨s', t', hs, ht, hst, stepAt_accOk hs hok⟩

/-! ### Two machines that hold the same numbers: a run -/

/-- From power-up both machines hold the same numbers, whatever the outside will do. -/
theorem State.powerOn_agrees (a b : Nat) (l : List (HostAction aw)) :
    ((State.powerOn a dimw aw).setInputs l).AgreesWith ((State.powerOn b dimw aw).setInputs l) :=
  State.agreesWith_withAcc_cleared (s := (State.powerOn a dimw aw).setInputs l) rfl

end Agreement

/-- Runs of any length from states that hold the same numbers end in states that do, by induction on the length. -/
theorem run_simulates {a b : Nat} (ha : 18 ≤ a) (hb : 18 ≤ b) (n : Nat) {s : State a dimw (2 * dimw)}
    {t : State b dimw (2 * dimw)} (h : s.AgreesWith t) (hok : s.regs.AccOk) :
    ∃ (s' : State a dimw (2 * dimw)) (t' : State b dimw (2 * dimw)),
      Host.Core.run (coreAt a dimw) n s = .next s' ∧ Host.Core.run (coreAt b dimw) n t = .next t' ∧
      s'.AgreesWith t' := by
  induction n generalizing s t with
  | zero => exact ⟨s, t, rfl, rfl, h⟩
  | succ n ih =>
    obtain ⟨s₁, t₁, hs, ht, h₁, hok₁⟩ := stepAt_simulates ha hb h hok
    rw [run_succ_of_step (coreAt a dimw) s s₁ hs, run_succ_of_step (coreAt b dimw) t t₁ ht]
    exact ih h₁ hok₁

/-- Settles O56: the step lemma of the simulation, and its runs from power-up, where no run is in progress. -/
theorem everyAccumulatorWidthStepsAlike : Obligations.EveryAccumulatorWidthStepsAlike := by
  refine ⟨fun a b dimw aw s t ha hb h hok => stepAt_simulates ha hb h hok, fun a b dimw n l ha hb => ?_⟩
  exact run_simulates ha hb n (State.powerOn_agrees a b l) (Regs.accOk_of_cleared rfl rfl)

end Sys2Proof.Machine
end

section
/-! PROOFS. The statements of 20_memory.md: the source pixels that a core step can depend on (R38), and the host's own
accesses to the pixel memories (R41). -/

namespace Sys2Proof.Machine

open Sys2Proof

variable {accw dimw aw : Nat}

/-! ### The source pixels that a core step reads (R38, R80) -/

/-- The source index of R102 in the form of R38, as a row and a column of the source buffer. -/
theorem Regs.srcIndex_eq_ofNat (r : Regs accw dimw) (dx dy : BitVec 1) (aw : Nat) : r.srcIndex dx dy aw =
    BitVec.ofNat aw ((2 * r.y.toNat + dy.toNat) * r.width.toNat + (2 * r.x.toNat + dx.toNat)) := by
  apply BitVec.eq_of_toNat_eq
  rw [Regs.srcIndex_toNat, BitVec.toNat_ofNat]

/-- SRC and `m` agree on the source pixels that belong to a block: those in columns below `2 * OUT_WIDTH` and rows
below `2 * OUT_HEIGHT` (R38). -/
def State.AgreesOnBlocks (s : State accw dimw aw) (m : Memory 48) : Prop :=
  ∀ col row, col < 2 * s.regs.outWidth.toNat → row < 2 * s.regs.outHeight.toNat →
    s.srcRead (BitVec.ofNat aw (row * s.regs.width.toNat + col)) =
      (s.setSrc m).srcRead (BitVec.ofNat aw (row * s.regs.width.toNat + col))

/-- During a run the pixel that an ACC step reads belongs to a block. -/
theorem State.AgreesOnBlocks.srcRead_srcIndex {s : State} {m : Memory 48} (h : s.AgreesOnBlocks m)
    (hrun : s.regs.RunOk) (dx dy : BitVec 1) :
    (s.setSrc m).srcRead (s.regs.srcIndex dx dy) = s.srcRead (s.regs.srcIndex dx dy) := by
  have hcol : 2 * s.regs.x.toNat + dx.toNat < 2 * s.regs.outWidth.toNat :=
    blockPixel_lt (by have := hrun.x; omega) dx
  have hrow : 2 * s.regs.y.toNat + dy.toNat < 2 * s.regs.outHeight.toNat :=
    blockPixel_lt (by have := hrun.y; omega) dy
  rw [Regs.srcIndex_eq_ofNat]
  exact (h _ _ hcol hrow).symm

/-- An ACC step depends on SRC through the one pixel at its effective address (R91). -/
theorem State.accStep_setSrc {s : State accw dimw aw} {m : Memory 48} {dx dy : BitVec 1}
    (h : (s.setSrc m).srcRead (s.regs.srcIndex dx dy aw) = s.srcRead (s.regs.srcIndex dx dy aw)) :
    (s.setSrc m).accStep dx dy = (s.accStep dx dy).setSrc m := by
  rw [State.accStep_eq (s.setSrc m), State.accStep_eq s, State.accStep_regs, State.accStep_regs, State.setSrc_regs, h]
  rfl

/-- An EMIT step does not depend on SRC (R92). -/
theorem State.emitStep_setSrc (s : State accw dimw aw) (m : Memory 48) :
    (s.setSrc m).emitStep = s.emitStep.setSrc m := rfl

/-- A step in which nothing is to come from outside and the core is BUSY: the micro-operation that K selects (R57, R100,
R101). -/
theorem step_busy_of_no_inputs {s : State} (hi : s.inputs = []) (hb : s.regs.state = .busy) :
    step s = exec (decodeSelector s.regs.k) s := by
  have hn : nextTurn s = coreTurn s := by
    unfold nextTurn
    rw [hi]
  unfold step
  rw [hn, coreTurn_busy hb]

/-- Settles O41, by the micro-operation that K selects: ACC reads one pixel of a block, EMIT reads none, and the bound
on K leaves no other. -/
theorem droppedPixelsAreNeverRead : Obligations.DroppedPixelsAreNeverRead := by
  intro s m hinv hb hi hagree
  have hrun : s.regs.RunOk := hinv.run hb
  change ∃ t : State, step s = .next t ∧ step (s.setSrc m) = .next (t.setSrc m)
  rw [step_busy_of_no_inputs hi hb, step_busy_of_no_inputs (s := s.setSrc m) hi hb, State.setSrc_regs]
  rcases decodeSelector_cases s.regs.k with ⟨_, hd⟩ | ⟨_, hd⟩ | ⟨hk, _⟩
  · have hread := State.AgreesOnBlocks.srcRead_srcIndex (m := m) hagree hrun
    rw [hd]
    exact ⟨_, rfl, congrArg Host.Outcome.next (State.accStep_setSrc (hread _ _))⟩
  · rw [hd]
    exact ⟨_, rfl, congrArg Host.Outcome.next (s.emitStep_setSrc m)⟩
  · exact absurd hrun.k (Nat.not_le.2 hk)

/-! ### The host's accesses to the pixel memories (R41) -/

/-- A step in which the turn leads to a state with no operation of the table. -/
theorem step_rest {s t : State} (h : nextTurn s = .rest t) : step s = .next t := by
  unfold step
  rw [h]

section Access

variable {s : State} {l : List HostAction} {a : Index}

/-- A step in which the host writes a pixel of SRC. -/
theorem step_writeSrc {p : SrcPixel} (h : s.inputs = .writeSrc a p :: l) :
    step s = .next ((s.setInputs l).srcWrite a p) :=
  step_rest (by rw [nextTurn, h])

/-- A step in which the host writes a pixel of DST. -/
theorem step_writeDst {v : DstPixel} (h : s.inputs = .writeDst a v :: l) :
    step s = .next ((s.setInputs l).dstWrite a v) :=
  step_rest (by rw [nextTurn, h])

/-- A step in which the host reads a pixel of SRC. -/
theorem step_readSrc (h : s.inputs = .readSrc a :: l) :
    step s = .next ((s.setInputs l).reply (.srcPixel (s.srcRead a))) :=
  step_rest (by rw [nextTurn, h])

/-- A step in which the host reads a pixel of DST. -/
theorem step_readDst (h : s.inputs = .readDst a :: l) :
    step s = .next ((s.setInputs l).reply (.dstPixel (s.dstRead a))) :=
  step_rest (by rw [nextTurn, h])

end Access

/-- Settles O11, one kind of access at a time: a write by the read-after-write laws of the two memories, a read by what
its step gives. -/
theorem hostPixelAccessesReadAndWrite : Obligations.HostPixelAccessesReadAndWrite := by
  refine fun s l => ⟨fun a p h => ?writeSrc, fun a v h => ?writeDst, fun a h => step_readSrc h,
    fun a h => step_readDst h⟩
  case writeSrc =>
    refine ⟨_, step_writeSrc h, ?_, fun b hb => ?_, rfl⟩
    · rw [State.srcRead_srcWrite, if_pos rfl]
    · rw [State.srcRead_srcWrite, if_neg hb, State.srcRead_setInputs]
  case writeDst =>
    refine ⟨_, step_writeDst h, ?_, fun b hb => ?_, rfl⟩
    · rw [State.dstRead_dstWrite, if_pos rfl]
    · rw [State.dstRead_dstWrite, if_neg hb, State.dstRead_setInputs]

end Sys2Proof.Machine
end

section
/-! PROOFS. The statements of 30_encoding.md: decoding and encoding of host transaction words and of selectors (R51 to
R59), the text forms (R61, R62), and the steps that run what is decoded (R50, R59). -/

namespace Sys2Proof

open Sys2Proof.Machine

/-! ### The register map (R54) -/

/-- An offset names a register or is reserved (R54). -/
theorem offset_cases (off : Offset) : (∃ reg : RegName, off = reg.offset) ∨ isReservedOffset off = true := by
  by_cases h : isReservedOffset off = true
  · exact .inr h
  · simp only [isReservedOffset, Bool.and_eq_true, bne_iff_ne, not_and_or, not_ne_iff] at h
    rcases h with (((((h | h) | h) | h) | h) | h) | h
    · exact .inl ⟨.ctrl, h⟩
    · exact .inl ⟨.status, h⟩
    · exact .inl ⟨.width, h⟩
    · exact .inl ⟨.height, h⟩
    · exact .inl ⟨.format, h⟩
    · exact .inl ⟨.outWidth, h⟩
    · exact .inl ⟨.outHeight, h⟩

/-- The read of a reserved offset (R54, R59). -/
theorem decodeRead_reserved {off : Offset} (h : isReservedOffset off = true) : decodeRead off = .rdReserved off := by
  simp only [isReservedOffset, Bool.and_eq_true, bne_iff_ne] at h
  simp only [decodeRead, h, if_false]

/-- The write of a reserved offset (R54, R59). -/
theorem decodeWrite_reserved {off : Offset} (h : isReservedOffset off = true) (v : HostWord) :
    decodeWrite off v = .wrReserved off v := by
  simp only [isReservedOffset, Bool.and_eq_true, bne_iff_ne] at h
  simp only [decodeWrite, h, if_false]

/-- A write of CTRL whose bit 0 is set is START (R53). -/
theorem decodeWrite_ctrl_start {v : HostWord} (h : v.getLsbD 0 = true) : decodeWrite 0x00 v = .wrCtrlStart v :=
  if_pos h

/-- A write of CTRL whose bit 0 is clear does nothing (R53). -/
theorem decodeWrite_ctrl_nop {v : HostWord} (h : v.getLsbD 0 = false) : decodeWrite 0x00 v = .wrCtrlNop v :=
  if_neg (ne_true_of_eq_false h)

/-! ### Selectors (R57) -/

/-- The selector `0 dy dx` is decoded to `ACC dx, dy`. -/
theorem decodeSelector_accSelector (dx dy : BitVec 1) : decodeSelector (accSelector dx dy) = .acc dx dy := by
  revert dx dy
  decide

/-- A selector is the encoding of what it decodes to. -/
theorem encode_decodeSelector (k : Selector) : encode (decodeSelector k) = .uop k := by
  revert k
  decide

/-- Every selector decodes to a well-formed operation (R59). -/
theorem decodeSelector_wf (k : Selector) : (decodeSelector k).wf = true := by
  unfold decodeSelector
  split_ifs <;> rfl

/-! ### Well-formed operations (R53, R54, R59) -/

/-- Every read decodes to a well-formed operation (R59). -/
theorem decodeRead_wf (off : Offset) : (decodeRead off).wf = true := by
  rcases offset_cases off with ⟨reg, rfl⟩ | h
  · cases reg <;> rfl
  · rw [decodeRead_reserved h]
    exact h

/-- Every write decodes to a well-formed operation: for CTRL bit 0 chooses the one it stands for (R53, R59). -/
theorem decodeWrite_wf (off : Offset) (v : HostWord) : (decodeWrite off v).wf = true := by
  rcases offset_cases off with ⟨reg, rfl⟩ | h
  · cases reg
    case ctrl =>
      cases hv : v.getLsbD 0 with
      | true => exact (congrArg Instr.wf (decodeWrite_ctrl_start hv)).trans hv
      | false => exact (congrArg Instr.wf (decodeWrite_ctrl_nop hv)).trans (congrArg (!·) hv)
    all_goals rfl
  · rw [decodeWrite_reserved h]
    exact h

/-- Settles O3, one format at a time. -/
theorem everyEncodingDecodesWellFormed : Obligations.EveryEncodingDecodesWellFormed := by
  intro e
  cases e with
  | txn t =>
    show (decodeTxn t).wf = true
    cases hwe : TxnWord.we t with
    | false =>
      rw [decodeTxn_of_read hwe]
      exact decodeRead_wf _
    | true =>
      rw [decodeTxn_of_write hwe]
      exact decodeWrite_wf _ _
  | uop k => exact decodeSelector_wf k

/-- Settles O2: the encoder's word is a read or a write whose offset and data the decoder takes out again; that the
operation is well-formed is needed for bit 0 of a CTRL write and for the reserved offsets. -/
theorem decodeOfEncodeIsTheInstruction : Obligations.DecodeOfEncodeIsTheInstruction := by
  intro i hwf
  cases i with
  | rdCtrl | rdStatus | rdWidth | rdHeight | rdFormat | rdOutWidth | rdOutHeight => exact decodeTxn_readWord _
  | wrWidth v | wrHeight v | wrFormat v | wrStatus v | wrOutWidth v | wrOutHeight v => exact decodeTxn_writeWord _ v
  | wrCtrlStart v => exact (decodeTxn_writeWord _ v).trans (decodeWrite_ctrl_start hwf)
  | wrCtrlNop v => exact (decodeTxn_writeWord _ v).trans (decodeWrite_ctrl_nop (Bool.not_inj hwf))
  | rdReserved off => exact (decodeTxn_readWord off).trans (decodeRead_reserved hwf)
  | wrReserved off v => exact (decodeTxn_writeWord off v).trans (decodeWrite_reserved hwf v)
  | acc dx dy => exact decodeSelector_accSelector dx dy
  | emit | reservedSel5 | reservedSel6 | reservedSel7 => rfl

/-! ### What decoding keeps of a word (R52, R53) -/

/-- A read decodes to the operation that the encoder gives the word of its offset. -/
theorem encode_decodeRead (off : Offset) : encode (decodeRead off) = .txn (readWord off) := by
  rcases offset_cases off with ⟨reg, rfl⟩ | h
  · cases reg <;> rfl
  · rw [decodeRead_reserved h]
    rfl

/-- A write decodes to the operation that the encoder gives the word of its offset and data. -/
theorem encode_decodeWrite (off : Offset) (v : HostWord) : encode (decodeWrite off v) = .txn (writeWord off v) := by
  rcases offset_cases off with ⟨reg, rfl⟩ | h
  · cases reg
    case ctrl =>
      cases hv : v.getLsbD 0 with
      | true => exact congrArg encode (decodeWrite_ctrl_start hv)
      | false => exact congrArg encode (decodeWrite_ctrl_nop hv)
    all_goals rfl
  · rw [decodeWrite_reserved h]
    rfl

/-- A word whose `WE` is set is the write of its offset and data. -/
theorem writeWord_of_we {t : TxnWord} (h : TxnWord.we t = true) :
    writeWord (TxnWord.off t) (TxnWord.wdata t) = t := by
  have ht := txn_eq_fields t
  rw [h] at ht
  exact ht.symm

/-- The encoder gives back the offset of a read, with the data 0. -/
theorem encode_decodeTxn_of_read {t : TxnWord} (h : TxnWord.we t = false) :
    encode (decodeTxn t) = .txn (readWord (TxnWord.off t)) := by
  rw [decodeTxn_of_read h, encode_decodeRead]

/-- The encoder gives back the whole word of a write. -/
theorem encode_decodeTxn_of_write {t : TxnWord} (h : TxnWord.we t = true) : encode (decodeTxn t) = .txn t := by
  rw [decodeTxn_of_write h, encode_decodeWrite, writeWord_of_we h]

/-- Two reads of different offsets have different words. -/
theorem readWord_injective {off off' : Offset} (h : readWord off = readWord off') : off = off' := by
  simpa only [readWord, off_fields] using congrArg TxnWord.off h

/-- A word whose `WE` is set is no read's word. -/
theorem readWord_ne_of_we {t : TxnWord} (h : TxnWord.we t = true) (off : Offset) : readWord off ≠ t := by
  rintro rfl
  exact absurd ((we_fields 0#1 off 0#32).symm.trans h) (by decide)

/-- Settles O4: of an operation the encoder gives back the whole word of a write, the offset of a read, and the
selector, so operations that are equal have these in common. -/
theorem decodingLosesOnlyTheDataOfReads : Obligations.DecodingLosesOnlyTheDataOfReads := by
  refine ⟨fun t u => ⟨fun h => ?same, ?alike⟩, fun j k h => ?selector⟩
  case same =>
    have henc : encode (decodeTxn t) = encode (decodeTxn u) := congrArg encode h
    cases ht : TxnWord.we t <;> cases hu : TxnWord.we u
    case false.false =>
      rw [encode_decodeTxn_of_read ht, encode_decodeTxn_of_read hu] at henc
      exact .inr ⟨ht, hu, readWord_injective (Encoded.txn.inj henc)⟩
    case false.true =>
      rw [encode_decodeTxn_of_read ht, encode_decodeTxn_of_write hu] at henc
      exact absurd (Encoded.txn.inj henc) (readWord_ne_of_we hu _)
    case true.false =>
      rw [encode_decodeTxn_of_write ht, encode_decodeTxn_of_read hu] at henc
      exact absurd (Encoded.txn.inj henc).symm (readWord_ne_of_we ht _)
    case true.true =>
      rw [encode_decodeTxn_of_write ht, encode_decodeTxn_of_write hu] at henc
      exact .inl (Encoded.txn.inj henc)
  case alike =>
    rintro (rfl | ⟨ht, hu, hoff⟩)
    · rfl
    · exact (decodeTxn_of_read ht).trans ((congrArg decodeRead hoff).trans (decodeTxn_of_read hu).symm)
  case selector =>
    have henc : encode (decodeSelector j) = encode (decodeSelector k) := congrArg encode h
    rw [encode_decodeSelector, encode_decodeSelector] at henc
    exact Encoded.uop.inj henc

/-! ### Masks and matches (R52, R53) -/

/-- A word under the mask of the CTRL rows, by its fields. -/
theorem and_startMask_fields (t : TxnWord) : t &&& 0x1FF00000001#41 =
    (BitVec.ofBool (TxnWord.we t) ++ TxnWord.off t ++ (TxnWord.wdata t &&& 1#32) : BitVec 41) :=
  (congrArg (· &&& 0x1FF00000001#41) (txn_eq_fields t)).trans (Laws.and_startMask _ _ _)

/-- A word under the mask of `WE` and `OFF`, by its fields. -/
theorem and_headMask_fields (t : TxnWord) : t &&& 0x1FF00000000#41 =
    (BitVec.ofBool (TxnWord.we t) ++ TxnWord.off t ++ 0#32 : BitVec 41) :=
  (congrArg (· &&& 0x1FF00000000#41) (txn_eq_fields t)).trans (Laws.and_headMask _ _ _)

/-- A word under the mask of `WE`, by its field. -/
theorem and_weMask_fields (t : TxnWord) : t &&& 0x10000000000#41 =
    (BitVec.ofBool (TxnWord.we t) ++ 0#8 ++ 0#32 : BitVec 41) :=
  (congrArg (· &&& 0x10000000000#41) (txn_eq_fields t)).trans (Laws.and_weMask _ _ _)

/-- Words put together from fields are equal only when the fields are. -/
theorem fields_injective {we we' : Bool} {off off' : Offset} {v v' : HostWord}
    (h : (BitVec.ofBool we ++ off ++ v : BitVec 41) = (BitVec.ofBool we' ++ off' ++ v' : BitVec 41)) :
    we = we' ∧ off = off' ∧ v = v' := by
  have hwe := congrArg TxnWord.we h
  have hoff := congrArg TxnWord.off h
  have hv := congrArg TxnWord.wdata h
  rw [we_fields, we_fields] at hwe
  rw [off_fields, off_fields] at hoff
  rw [wdata_fields, wdata_fields] at hv
  exact ⟨by simpa using hwe, hoff, hv⟩

/-- A word in the row of a read decodes to the read of the row's offset (R52). -/
theorem decodeTxn_of_readRow {t : TxnWord} {off : Offset} (h : t &&& 0x1FF00000000#41 = readWord off) :
    decodeTxn t = decodeRead off := by
  obtain ⟨hwe, hoff, _⟩ := fields_injective (we' := false) ((and_headMask_fields t).symm.trans h)
  rw [decodeTxn_of_read hwe, hoff]

/-- A word in the row of a write decodes to the write of its data to the row's offset (R53). -/
theorem decodeTxn_of_writeRow {t : TxnWord} {off : Offset} (h : t &&& 0x1FF00000000#41 = writeWord off 0) :
    decodeTxn t = decodeWrite off (TxnWord.wdata t) := by
  obtain ⟨hwe, hoff, _⟩ := fields_injective (we' := true) ((and_headMask_fields t).symm.trans h)
  rw [decodeTxn_of_write hwe, hoff]

/-- A word in one of the two rows of CTRL is a write of CTRL, and bit 0 of its data is the one the row asks for
(R53). -/
theorem decodeTxn_of_ctrlRow {t : TxnWord} {b : HostWord} (h : t &&& 0x1FF00000001#41 = writeWord 0x00 b) :
    decodeTxn t = decodeWrite 0x00 (TxnWord.wdata t) ∧ (TxnWord.wdata t).getLsbD 0 = b.getLsbD 0 := by
  obtain ⟨hwe, hoff, hb⟩ := fields_injective (we' := true) ((and_startMask_fields t).symm.trans h)
  refine ⟨by rw [decodeTxn_of_write hwe, hoff], ?_⟩
  rw [← hb, BitVec.getLsbD_and]
  simp

/-- A word in a reserved row has the row's `WE` (R52, R53). -/
theorem we_of_weRow {t : TxnWord} {we : Bool}
    (h : t &&& 0x10000000000#41 = (BitVec.ofBool we ++ 0#8 ++ 0#32 : BitVec 41)) : TxnWord.we t = we := by
  obtain ⟨hwe, _, _⟩ := fields_injective ((and_weMask_fields t).symm.trans h)
  exact hwe

/-- Settles O5: each mask keeps some of the word's fields, and the match says what they are. That a row's match is the
word of its offset, and its operation what the offset decodes to, is computed. -/
theorem hostWordsDecodeByMaskAndMatch : Obligations.HostWordsDecodeByMaskAndMatch := by
  intro t
  refine ⟨decodeTxn_of_readRow (off := 0x00), decodeTxn_of_readRow (off := 0x04), decodeTxn_of_readRow (off := 0x08),
    decodeTxn_of_readRow (off := 0x0C), decodeTxn_of_readRow (off := 0x10), decodeTxn_of_readRow (off := 0x14),
    decodeTxn_of_readRow (off := 0x18), fun h => ?start, fun h => ?nop, decodeTxn_of_writeRow (off := 0x08),
    decodeTxn_of_writeRow (off := 0x0C), decodeTxn_of_writeRow (off := 0x10), decodeTxn_of_writeRow (off := 0x04),
    decodeTxn_of_writeRow (off := 0x14), decodeTxn_of_writeRow (off := 0x18),
    fun hres => ⟨fun h => ?rdReserved, fun h => ?wrReserved⟩⟩
  case start =>
    obtain ⟨hdecode, hbit⟩ := decodeTxn_of_ctrlRow (b := 1) h
    exact hdecode.trans (decodeWrite_ctrl_start hbit)
  case nop =>
    obtain ⟨hdecode, hbit⟩ := decodeTxn_of_ctrlRow (b := 0) h
    exact hdecode.trans (decodeWrite_ctrl_nop hbit)
  case rdReserved => exact (decodeTxn_of_read (we_of_weRow (we := false) h)).trans (decodeRead_reserved hres)
  case wrReserved => exact (decodeTxn_of_write (we_of_weRow (we := true) h)).trans (decodeWrite_reserved hres _)

/-- Settles O1: the twelve words are closed terms, and the decoder is evaluated on each. -/
theorem wordsDecodeAsTheSpecWritesThem : Obligations.WordsDecodeAsTheSpecWritesThem := by
  unfold Obligations.WordsDecodeAsTheSpecWritesThem
  decide

/-! ### Words as numbers (R51, R61) -/

/-- A word as a number: its fields do not overlap (R51). -/
theorem fields_toNat (we : BitVec 1) (off : Offset) (v : HostWord) :
    (we ++ off ++ v : BitVec 41).toNat = we.toNat * 2 ^ 40 + off.toNat * 2 ^ 32 + v.toNat := by
  show (we ++ off ++ v : BitVec (1 + 8 + 32)).toNat = _
  rw [BitVec.toNat_append, BitVec.toNat_append, ← Nat.shiftLeft_add_eq_or_of_lt v.isLt,
    ← Nat.shiftLeft_add_eq_or_of_lt off.isLt, Nat.shiftLeft_eq, Nat.shiftLeft_eq]
  omega

/-- A read's word as a number (R61). -/
theorem readWord_toNat (off : Offset) : (readWord off).toNat = off.toNat * 2 ^ 32 := by
  rw [readWord, fields_toNat]
  simp

/-- A write's word as a number (R61). -/
theorem writeWord_toNat (off : Offset) (v : HostWord) :
    (writeWord off v).toNat = 2 ^ 40 + off.toNat * 2 ^ 32 + v.toNat := by
  rw [writeWord, fields_toNat]
  simp

/-- A data word, widened to a transaction word, is its data field. -/
theorem setWidth_eq_fields (v : HostWord) : v.setWidth 41 = (0#1 ++ 0#8 ++ v : BitVec 41) := by
  apply BitVec.eq_of_toNat_eq
  rw [fields_toNat, BitVec.toNat_setWidth_of_le (by decide)]
  simp

end Sys2Proof

namespace Sys2Proof.Machine

open Sys2Proof

/-! ### Text forms (R61, R62) -/

/-- A line that reads is assembled to the encoder's word of a read. -/
theorem assemble_rdAt (off : Offset) : (Line.rdAt off).assemble = readWord off := by
  apply BitVec.eq_of_toNat_eq
  have hoff := off.isLt
  rw [readWord_toNat]
  simp only [Line.assemble, BitVec.toNat_shiftLeft, BitVec.toNat_setWidth, Nat.shiftLeft_eq]
  omega

/-- A line that writes is assembled to the encoder's word of a write. -/
theorem assemble_wrAt (off : Offset) (v : HostWord) : (Line.wrAt off v).assemble = writeWord off v := by
  have hwe : 0x10000000000#41 = (1#1 ++ 0#8 ++ 0#32 : BitVec 41) := by decide
  show 0x10000000000#41 ||| (Line.rdAt off).assemble ||| v.setWidth 41 = (1#1 ++ off ++ v : BitVec 41)
  rw [assemble_rdAt, setWidth_eq_fields, hwe, readWord, BitVec.or_append, BitVec.or_append, BitVec.or_append,
    BitVec.or_append]
  simp only [BitVec.or_zero, BitVec.zero_or]

/-- A line that reads decodes to the read of its offset (R61). -/
theorem decodeTxn_assemble_rdAt (off : Offset) : decodeTxn (Line.rdAt off).assemble = decodeRead off := by
  rw [assemble_rdAt, decodeTxn_readWord]

/-- A line that writes decodes to the write of its value to its offset (R61). -/
theorem decodeTxn_assemble_wrAt (off : Offset) (v : HostWord) :
    decodeTxn (Line.wrAt off v).assemble = decodeWrite off v := by
  rw [assemble_wrAt, decodeTxn_writeWord]

/-- The end of `wait` as a number (R62). -/
theorem waitOver_iff (v : HostWord) : waitOver v = true ↔ v.toNat % 4 = 2 ∨ v.toNat % 4 = 3 := by
  unfold waitOver
  simp [← BitVec.toNat_inj, BitVec.extractLsb'_toNat]

/-- Settles O6: a line that names a register is the line of the register's offset, and so has its word and its
decoding; the expansions of R62 are lists of such lines, whose words are computed. -/
theorem textLinesAssembleToTheirOperations : Obligations.TextLinesAssembleToTheirOperations := by
  refine ⟨fun off => ⟨?rdAtWord, decodeTxn_assemble_rdAt off⟩,
    fun off v => ⟨?wrAtWord, decodeTxn_assemble_wrAt off v⟩, fun _ => rfl, fun _ _ => rfl,
    fun reg => (decodeTxn_assemble_rdAt reg.offset).trans ?rd,
    fun reg v => (decodeTxn_assemble_wrAt reg.offset v).trans ?wr, rfl, fun _ _ => rfl, fun _ _ => rfl, rfl, rfl,
    waitOver_iff, rfl⟩
  case rdAtWord => rw [assemble_rdAt, readWord_toNat]
  case wrAtWord => rw [assemble_wrAt, writeWord_toNat]
  case rd => cases reg <;> rfl
  case wr => cases reg <;> rfl

/-! ### Steps that run what is decoded (R50, R59) -/

/-- Settles O7, by the rule for a step in which the host performs a transaction. -/
theorem stepRunsTheHostTransaction : Obligations.StepRunsTheHostTransaction :=
  fun _ _ _ h => step_txn h

/-- Settles O37, from what K can select: above 4 neither ACC nor EMIT is left. -/
theorem reservedSelectorsAreFaults : Obligations.ReservedSelectorsAreFaults := by
  refine ⟨fun s => ⟨rfl, rfl, rfl⟩, fun s hbusy hk hinputs => ?_⟩
  rw [step_busy_of_no_inputs hinputs hbusy]
  rcases decodeSelector_cases s.regs.k with ⟨hle, _⟩ | ⟨heq, _⟩ | ⟨_, hfault⟩
  · exact absurd hk (by omega)
  · exact absurd hk (by rw [heq]; decide)
  · exact hfault s

end Sys2Proof.Machine
end

section
/-! PROOFS. The statements of 40_transform_function.md: the transform of a buffer with odd dimensions (R80), and the
monotonicity and bounds of the output sample (R83). -/

namespace Sys2Proof.Machine

open Sys2Proof

/-! ### One output sample (R75 to R78) -/

/-- The clamp keeps an output sample in 8 bits (R76). -/
theorem outputSample_le (sum : Nat) : outputSample sum ≤ 255 := min_le_right _ _

/-- The division and the clamp are both non-decreasing. -/
theorem outputSample_mono {m n : Nat} (h : m ≤ n) : outputSample m ≤ outputSample n :=
  min_le_min_right 255 (Nat.div_le_div_right h)

/-- The fraction is discarded, not rounded: sums up to 255 give 0 (R75). -/
theorem outputSample_eq_zero_iff (sum : Nat) : outputSample sum = 0 ↔ sum ≤ 255 := by
  unfold outputSample
  omega

/-- The output is full from `255 * 256` on, before the clamp acts (R76). -/
theorem outputSample_eq_full_iff (sum : Nat) : outputSample sum = 255 ↔ 65280 ≤ sum := by
  unfold outputSample
  omega

/-- Up to the sum where the output is full, the clamp does not change the quotient. -/
theorem outputSample_of_le {sum : Nat} (h : sum ≤ 65279) : outputSample sum = sum / 256 :=
  min_eq_left (by omega)

/-- The output of four equal samples: `4v div 256 = v div 64` (R83). -/
theorem outputSample_four_mul (v : Nat) : outputSample (4 * v) = min (v / 64) 255 := by
  unfold outputSample
  rw [Nat.mul_div_mul_left v 64 (by decide : 0 < 4)]

/-- The 8 bits of the output buffer lose nothing of an output sample (R78). -/
theorem transform_sample_toNat (b : PixelBuffer 16) (x y : Nat) (c : Fin 3) :
    ((transform b).sample x y c).toNat = outputSample (b.blockSum x y c) :=
  (BitVec.toNat_ofNat _ _).trans (Nat.mod_eq_of_lt (Nat.lt_succ_of_le (outputSample_le _)))

/-! ### The sum of a block (R73, R74) -/

section BlockSum

variable {b : PixelBuffer 16} {c : Fin 3}

/-- The sum of a block is non-decreasing in the samples. -/
theorem PixelBuffer.blockSum_mono {d : PixelBuffer 16}
    (h : ∀ col row, (b.sample col row c).toNat ≤ (d.sample col row c).toNat) (x y : Nat) :
    b.blockSum x y c ≤ d.blockSum x y c :=
  Nat.add_le_add (Nat.add_le_add (Nat.add_le_add (h _ _) (h _ _)) (h _ _)) (h _ _)

/-- A block of four equal samples. -/
theorem PixelBuffer.blockSum_of_uniform {v : Sample16} (h : ∀ col row, b.sample col row c = v) (x y : Nat) :
    b.blockSum x y c = 4 * v.toNat := by
  simp only [PixelBuffer.blockSum, h]
  omega

/-- A bound on the samples bounds the sum of a block by four times as much. -/
theorem PixelBuffer.blockSum_le_four_mul {n : Nat} (h : ∀ col row, (b.sample col row c).toNat ≤ n) (x y : Nat) :
    b.blockSum x y c ≤ 4 * n := by
  have h00 := h (2 * x) (2 * y)
  have h10 := h (2 * x + 1) (2 * y)
  have h01 := h (2 * x) (2 * y + 1)
  have h11 := h (2 * x + 1) (2 * y + 1)
  unfold PixelBuffer.blockSum
  omega

end BlockSum

/-- Settles O38: every clause is a fact about `outputSample` at the sum of the block. Four samples of 8 bits sum to at
most 1020, whose output sample is 3. -/
theorem outputSampleBounds : Obligations.OutputSampleBounds := by
  unfold Obligations.OutputSampleBounds
  simp only [transform_sample_toNat]
  refine ⟨fun b d x y c hle => outputSample_mono (PixelBuffer.blockSum_mono hle x y),
    fun b x y c => ⟨outputSample_eq_zero_iff _, outputSample_eq_full_iff _, ?between, ?uniform, ?small⟩⟩
  case between =>
    intro hlow hhigh
    rw [outputSample_of_le hhigh]
    omega
  case uniform =>
    intro v hv
    rw [PixelBuffer.blockSum_of_uniform hv, outputSample_four_mul]
  case small =>
    intro hsmall
    have hsum : b.blockSum x y c ≤ 1020 := PixelBuffer.blockSum_le_four_mul hsmall x y
    exact ⟨hsum, outputSample_mono hsum⟩

/-! ### Odd dimensions (R80) -/

/-- Half of a dimension is half of the dimension without its odd last column or row. -/
theorem half_crop (n : Nat) : (n - n % 2) / 2 = n / 2 := by omega

/-- Cropping keeps the samples of every block, those at the columns `2 * x + dx` and rows `2 * y + dy`. -/
theorem PixelBuffer.crop_sample_block (b : PixelBuffer 16) {x y : Nat} (hx : x < b.width / 2) (hy : y < b.height / 2)
    (dx dy : BitVec 1) (c : Fin 3) :
    b.crop.sample (2 * x + dx.toNat) (2 * y + dy.toNat) c = b.sample (2 * x + dx.toNat) (2 * y + dy.toNat) c := by
  rw [← half_crop] at hx hy
  exact if_pos ⟨blockPixel_lt hx dx, blockPixel_lt hy dy⟩

/-- Cropping keeps the sum of every block. -/
theorem PixelBuffer.crop_blockSum (b : PixelBuffer 16) {x y : Nat} (hx : x < b.width / 2) (hy : y < b.height / 2)
    (c : Fin 3) : b.crop.blockSum x y c = b.blockSum x y c := by
  have hsample := fun dx dy => congrArg BitVec.toNat (b.crop_sample_block hx hy dx dy c)
  have h00 : (b.crop.sample (2 * x) (2 * y) c).toNat = _ := hsample 0 0
  have h10 : (b.crop.sample (2 * x + 1) (2 * y) c).toNat = _ := hsample 1 0
  have h01 : (b.crop.sample (2 * x) (2 * y + 1) c).toNat = _ := hsample 0 1
  have h11 : (b.crop.sample (2 * x + 1) (2 * y + 1) c).toNat = _ := hsample 1 1
  rw [PixelBuffer.blockSum, h00, h10, h01, h11]
  rfl

/-- Settles O39: the dimensions round down alike, and a block of the output reads only pixels that cropping keeps. -/
theorem oddRowAndColumnAreDropped : Obligations.OddRowAndColumnAreDropped := by
  intro b
  refine ⟨(half_crop b.width).symm, (half_crop b.height).symm, fun x y c hx hy => ?_⟩
  apply BitVec.eq_of_toNat_eq
  rw [transform_sample_toNat, transform_sample_toNat, b.crop_blockSum hx hy]

end Sys2Proof.Machine
end

section
/-! PROOFS. The statements of 41_datapath_operations.md: the ACC step (R91), the EMIT step (R92), and the conversion of
EMIT in bits (R93). -/

namespace Sys2Proof.Machine

open Sys2Proof

variable {accw dimw aw : Nat}

/-! ### The two micro-operations complete in every state (R91, R92) -/

/-- The meaning of ACC (R91, R103). -/
theorem exec_acc (dx dy : BitVec 1) (s : State) : exec (.acc dx dy) s = .next (s.accStep dx dy) := rfl

/-- The meaning of EMIT (R92, R104). -/
theorem exec_emit (s : State) : exec .emit s = .next s.emitStep := rfl

/-! ### ACC (R91, R103) -/

/-- One accumulator after an ACC step, as a number: the lanes are independent (R90, R91). -/
theorem State.accStep_acc_toNat (s : State accw dimw aw) (dx dy : BitVec 1) (c : Fin 3) :
    ((s.accStep dx dy).regs.acc.get c).toNat =
      ((s.regs.acc.get c).toNat + (chan16 (s.srcRead (s.regs.srcIndex dx dy aw)) c).toNat) % 2 ^ accw := by
  rw [State.accStep_regs, accumulate_get, accLane_toNat]

/-- The phase after an ACC step, as a number (R103). -/
theorem State.accStep_k_toNat (s : State accw dimw aw) (dx dy : BitVec 1) :
    (s.accStep dx dy).regs.k.toNat = (s.regs.k.toNat + 1) % 8 := by
  rw [State.accStep_regs]
  exact BitVec.toNat_add _ _

/-- An ACC step changes the accumulators and the phase only (R91, R103). -/
theorem State.accStep_frame (s : State accw dimw aw) (dx dy : BitVec 1) :
    s.accStep dx dy = { s with
      regs := { s.regs with acc := (s.accStep dx dy).regs.acc, k := (s.accStep dx dy).regs.k } } := rfl

/-- Settles O31: the address is the effective address of R102, and the rest is the ACC step as numbers. -/
theorem accAddsOnePixel : Obligations.AccAddsOnePixel := fun dx dy s =>
  ⟨s.regs.srcIndex dx dy, s.accStep dx dy, Regs.srcIndex_toNat _ _ _ _, exec_acc dx dy s,
    s.accStep_acc_toNat dx dy, s.accStep_k_toNat dx dy, s.accStep_frame dx dy⟩

/-! ### EMIT (R92, R104) -/

/-- A sample of the output pixel is the converted sum of its channel (R92). -/
theorem chan8_emitPixel (acc : Lanes (Acc accw)) (c : Fin 3) : chan8 (emitPixel acc) c = emitLane (acc.get c) := by
  rw [emitPixel, chan8_pack24, lanesOf_get]

/-- An EMIT step changes DST, the accumulators, the scan position and STATE only (R92, R104). -/
theorem State.emitStep_frame (s : State accw dimw aw) :
    s.emitStep = { s with
      dst := s.emitStep.dst
      regs := { s.regs with
        acc := ⟨0, 0, 0⟩, k := s.emitStep.regs.k, x := s.emitStep.regs.x, y := s.emitStep.regs.y,
        state := s.emitStep.regs.state } } := by
  have hregs : s.emitStep.regs = { s.regs with
      acc := ⟨0, 0, 0⟩, k := 0, x := s.emitStep.regs.x, y := s.emitStep.regs.y, state := s.emitStep.regs.state } :=
    Regs.advance_eq { s.regs with acc := ⟨0, 0, 0⟩ }
  rw [s.emitStep_cleared.1, ← hregs]
  exact s.emitStep_eq

/-- Settles O32: EMIT is one write of DST, at the effective address of R102, and the advance. -/
theorem emitWritesTheConvertedPixel : Obligations.EmitWritesTheConvertedPixel := by
  intro s
  refine ⟨s.regs.dstIndex, emitPixel s.regs.acc, s.emitStep, Regs.dstIndex_toNat _ _, fun c => ?_, exec_emit s,
    ?_, fun b hb => ?_, s.emitStep_frame⟩
  · rw [chan8_emitPixel, emitLane_toNat]
  · rw [State.emitStep_dst, Memory.read_write_same]
  · rw [State.emitStep_dst, Memory.read_write_other _ _ hb]

/-! ### The conversion in bits (R93) -/

/-- The number in a field of a bit vector. -/
theorem field_toNat {n : Nat} (a : BitVec n) (start len : Nat) :
    (a.extractLsb' start len).toNat = a.toNat / 2 ^ start % 2 ^ len := by
  rw [BitVec.extractLsb'_toNat, Nat.shiftRight_eq_div_pow]

/-- When a field of a bit vector is 0. -/
theorem field_eq_zero_iff {n : Nat} (a : BitVec n) (start len : Nat) :
    a.extractLsb' start len = 0 ↔ a.toNat / 2 ^ start % 2 ^ len = 0 := by
  rw [← field_toNat]
  exact BitVec.toNat_inj.symm

/-- The upper half of an accumulator is 0 exactly below 2^16. -/
theorem upperHalf_eq_zero_iff (a : Acc) : a.extractLsb' 16 16 = 0 ↔ a.toNat < 2 ^ 16 := by
  have ha := a.isLt
  rw [field_eq_zero_iff]
  omega

/-- From a sum of 2^16 on, the output sample is full (R92). -/
theorem emitLane_of_le {n : Nat} {a : BitVec n} (h : 2 ^ 16 ≤ a.toNat) : emitLane a = 0xFF := by
  apply BitVec.eq_of_toNat_eq
  rw [emitLane_toNat, Nat.min_eq_right (by omega)]
  rfl

/-- Below 2^16 the clamp does not act: the output sample is the byte `S[15:8]` (R93). -/
theorem emitLane_of_lt {n : Nat} {a : BitVec n} (h : a.toNat < 2 ^ 16) : emitLane a = a.extractLsb' 8 8 := by
  apply BitVec.eq_of_toNat_eq
  rw [emitLane_toNat, field_toNat]
  omega

/-- Sums with the same quotient by 256 give the same output sample (R92). -/
theorem emitLane_eq_of_div_eq {n : Nat} {a b : BitVec n} (h : a.toNat / 256 = b.toNat / 256) :
    emitLane a = emitLane b := by
  apply BitVec.eq_of_toNat_eq
  rw [emitLane_toNat, emitLane_toNat, h]

/-- The bits of an accumulator above the low byte are its quotient by 256. -/
theorem aboveLowByte_toNat (a : Acc) : (a.extractLsb' 8 24).toNat = a.toNat / 256 := by
  have ha := a.isLt
  rw [field_toNat]
  omega

/-- In the reachable range the two bits of headroom are the whole upper half (R93). -/
theorem headroom_eq_zero_iff {a : Acc} (h : a.toNat ≤ 0x3FFFC) :
    a.extractLsb' 16 2 = 0 ↔ a.extractLsb' 16 16 = 0 := by
  rw [field_eq_zero_iff, field_eq_zero_iff]
  omega

/-- In the reachable range `S[17:2]` is the truncated mean of the four samples (R93). -/
theorem mean_toNat {a : Acc} (h : a.toNat ≤ 0x3FFFC) : (a.extractLsb' 2 16).toNat = a.toNat / 4 := by
  rw [field_toNat]
  omega

/-- Settles O35: the fields of R93 as numbers, and the two branches of the clamp at 2^16. -/
theorem conversionInBits : Obligations.ConversionInBits := by
  intro a
  refine ⟨fun hhigh => ?_, fun hlow => ?_, fun hreach => ?_, fun b hab => ?_⟩
  · have hsum : 2 ^ 16 ≤ a.toNat := Nat.le_of_not_lt fun hlt => hhigh ((upperHalf_eq_zero_iff a).2 hlt)
    exact emitLane_of_le hsum
  · exact emitLane_of_lt ((upperHalf_eq_zero_iff a).1 hlow)
  · exact ⟨not_congr (headroom_eq_zero_iff hreach).symm, mean_toNat hreach⟩
  · have hdiv : a.toNat / 256 = b.toNat / 256 := by rw [← aboveLowByte_toNat, ← aboveLowByte_toNat, hab]
    exact emitLane_eq_of_div_eq hdiv

end Sys2Proof.Machine
end

section
/-! PROOFS. The statements of 42_sequencer.md about one step: the core's turn (R100, R101), the advance of the scan
(R104), and what the host can do while a run is in progress (R100). -/

namespace Sys2Proof.Machine

open Sys2Proof

/-! ### The core's turn (R100, R101; log entry 1) -/

/-- The core has the turn in `s`, and `u` is `s` without the turn among the actions to come. -/
def State.CoreHasTurn (s u : State) : Prop :=
  (s.inputs = [] ∧ u = s) ∨ ∃ l, s.inputs = .coreTurn :: l ∧ u = { s with inputs := l }

section Turn

variable {s u t : State}

/-- The turn changes no register. -/
theorem State.CoreHasTurn.regs (h : s.CoreHasTurn u) : u.regs = s.regs := by
  rcases h with ⟨_, rfl⟩ | ⟨l, _, rfl⟩ <;> rfl

/-- On its turn a core that is not BUSY does nothing (R100). -/
theorem step_of_coreHasTurn_rest (h : s.CoreHasTurn u) (hb : s.regs.state ≠ .busy) : step s = .next u := by
  have hn : nextTurn s = coreTurn u := by
    rcases h with ⟨hi, rfl⟩ | ⟨l, hi, rfl⟩
    · rw [nextTurn, hi]
    · rw [nextTurn, hi]
      rfl
  exact step_rest (hn.trans (coreTurn_rest (h.regs ▸ hb)))

/-- On its turn a BUSY core performs the micro-operation that K selects (R57, R101). -/
theorem step_of_coreHasTurn (h : s.CoreHasTurn u) (hb : s.regs.state = .busy) :
    step s = exec (decodeSelector s.regs.k) u := by
  rcases h with ⟨hi, rfl⟩ | ⟨l, hi, rfl⟩
  · exact step_busy_of_no_inputs hi hb
  · exact step_coreTurn_busy hi hb

/-- On its turn a BUSY core in a phase that has an operation answers a next state: ACC up to 3, EMIT at 4 (R101). -/
theorem step_core (h : s.CoreHasTurn u) (hb : s.regs.state = .busy) (hk : s.regs.k.toNat ≤ 4) :
    (s.regs.k.toNat ≤ 3 ∧ step s = .next (u.accStep (s.regs.k.extractLsb' 0 1) (s.regs.k.extractLsb' 1 1))) ∨
    (s.regs.k = 4 ∧ step s = .next u.emitStep) := by
  rw [step_of_coreHasTurn h hb]
  rcases decodeSelector_cases s.regs.k with ⟨hk3, hd⟩ | ⟨hk4, hd⟩ | ⟨hk5, _⟩
  · rw [hd]
    exact .inl ⟨hk3, exec_acc _ _ u⟩
  · rw [hd]
    exact .inr ⟨hk4, exec_emit u⟩
  · omega

end Turn

/-- The bits of a phase up to 3 are the offsets inside the block, as numbers (R57, R102). -/
theorem phaseBits_toNat {k : Selector} (hk : k.toNat ≤ 3) :
    (k.extractLsb' 0 1).toNat = k.toNat % 2 ∧ (k.extractLsb' 1 1).toNat = k.toNat / 2 := by
  rw [field_toNat, field_toNat]
  omega

/-- Settles O8: the step is the decoded selector, and each clause is what the selector decodes to. -/
theorem stepRunsTheSelectedMicroOperation : Obligations.StepRunsTheSelectedMicroOperation := by
  intro s u hb hturn
  have hstep : step s = exec (decodeSelector s.regs.k) u := step_of_coreHasTurn hturn hb
  have hsel {k : Selector} (hk : s.regs.k = k) : step s = exec (decodeSelector k) u := hk ▸ hstep
  refine ⟨hstep, fun hk => ?_, hsel, hsel, hsel, hsel⟩
  obtain ⟨hdx, hdy⟩ := phaseBits_toNat hk
  refine ⟨_, _, hdx, hdy, ?_⟩
  rcases decodeSelector_cases s.regs.k with ⟨_, hd⟩ | ⟨hk4, _⟩ | ⟨hk5, _⟩
  · rw [hstep, hd]
  · exact absurd hk (by rw [hk4]; decide)
  · omega

/-! ### The advance of the scan (R104) -/

/-- The registers after an EMIT step, in the three cases of R104. -/
theorem State.emitStep_regs_cases {accw dimw aw : Nat} (s : State accw dimw aw) :
    (s.regs.x.toNat + 1 < s.regs.outWidth.toNat ∧
      s.emitStep.regs = { s.regs with acc := ⟨0, 0, 0⟩, k := 0, x := s.regs.x + 1 }) ∨
    (s.regs.outWidth.toNat ≤ s.regs.x.toNat + 1 ∧ s.regs.y.toNat + 1 < s.regs.outHeight.toNat ∧
      s.emitStep.regs = { s.regs with acc := ⟨0, 0, 0⟩, k := 0, x := 0, y := s.regs.y + 1 }) ∨
    (s.regs.outWidth.toNat ≤ s.regs.x.toNat + 1 ∧ s.regs.outHeight.toNat ≤ s.regs.y.toNat + 1 ∧
      s.emitStep.regs = { s.regs with acc := ⟨0, 0, 0⟩, k := 0, x := 0, y := 0, state := .done }) :=
  Regs.advance_cases { s.regs with acc := ⟨0, 0, 0⟩ }

/-- Settles O33: the three cases of the advance exclude each other, so each clause is one of them. -/
theorem emitAdvancesTheScan : Obligations.EmitAdvancesTheScan := by
  intro s hb _
  refine ⟨s.emitStep, exec_emit s, s.emitStep_cleared.1, ?_⟩
  rcases s.emitStep_regs_cases with ⟨hx, h⟩ | ⟨hx, hy, h⟩ | ⟨hx, hy, h⟩ <;> rw [h]
  case inl => exact ⟨rfl, fun _ => ⟨succ_toNat hx, rfl, hb⟩, fun hx' => by omega, fun hx' => by omega⟩
  case inr.inl => exact ⟨rfl, fun hx' => by omega, fun _ _ => ⟨rfl, succ_toNat hy, hb⟩, fun _ hy' => by omega⟩
  case inr.inr => exact ⟨rfl, fun hx' => by omega, fun _ hy' => by omega, fun _ _ => ⟨rfl, rfl, rfl⟩⟩

/-! ### The host during a run (R100, R125, R137) -/

/-- A host transaction during a run does nothing but to give at most one reply. -/
theorem exec_txn_busy (w : TxnWord) {s : State} (hb : s.regs.state = .busy) :
    ∃ rs, exec (decodeTxn w) s = .next { s with replies := rs } ∧ s.replies <:+ rs ∧
      rs.length ≤ s.replies.length + 1 := by
  have hsame : s.replies <:+ s.replies ∧ s.replies.length ≤ s.replies.length + 1 :=
    ⟨List.suffix_refl _, Nat.le_succ _⟩
  obtain ⟨t, ht⟩ := exec_txn_next w s
  rw [ht]
  rcases exec_txn_cases ht with ⟨v, rfl⟩ | ⟨wd, hgt, ch, dp, rfl⟩ | ⟨v, _, rfl⟩ | rfl
  · exact ⟨.rdata v :: s.replies, rfl, List.suffix_cons _ _, le_rfl⟩
  · rw [State.configWrite_busy _ hb]
    exact ⟨s.replies, rfl, hsame⟩
  · rw [State.start, if_pos hb]
    exact ⟨s.replies, rfl, hsame⟩
  · exact ⟨t.replies, rfl, hsame⟩

/-- Settles O24. -/
theorem hostTransactionsDoNotDisturbARun : Obligations.HostTransactionsDoNotDisturbARun :=
  fun w _ hb => exec_txn_busy w hb

/-- SRC after an action from outside: a pixel write of the host is the one action that changes it (R41). -/
def HostAction.srcAfter (m : Memory 48) : HostAction → Memory 48
  | .writeSrc a p => m.write a.toNat p
  | _ => m

/-- DST after an action from outside other than a core turn (R41). -/
def HostAction.dstAfter (m : Memory 24) : HostAction → Memory 24
  | .writeDst a v => m.write a.toNat v
  | _ => m

/-- The state after an action of the host during a run, with the replies it leaves: no register changes. -/
def State.afterHost (s : State) (a : HostAction) (l : List HostAction) (rs : List Reply) : State :=
  { s with src := a.srcAfter s.src, dst := a.dstAfter s.dst, inputs := l, replies := rs }

/-- A step of the host during a run (R100): a transaction or a pixel access completes and changes no register. -/
theorem step_host_busy {s : State} {a : HostAction} {l : List HostAction} (hb : s.regs.state = .busy)
    (hi : s.inputs = a :: l) (hcore : a ≠ .coreTurn) (hreset : a ≠ .reset) :
    ∃ rs, step s = .next (s.afterHost a l rs) := by
  cases a with
  | txn w =>
    obtain ⟨rs, hx, _⟩ := exec_txn_busy w (s := s.setInputs l) hb
    exact ⟨rs, (step_txn hi).trans hx⟩
  | writeSrc a p => exact ⟨_, step_writeSrc hi⟩
  | readSrc a => exact ⟨_, step_readSrc hi⟩
  | writeDst a v => exact ⟨_, step_writeDst hi⟩
  | readDst a => exact ⟨_, step_readDst hi⟩
  | reset => exact absurd rfl hreset
  | coreTurn => exact absurd rfl hcore

/-- A step in which the reset input is active (R160). -/
theorem step_reset {s : State} {l : List HostAction} (h : s.inputs = .reset :: l) :
    step s = .next (s.setInputs l).resetRegs :=
  step_rest (by rw [nextTurn, h])

/-- Everything a step of a BUSY machine in a phase that has an operation can do: ACC, EMIT, an action of the host that
changes no register, or a reset. -/
theorem step_busy_cases {s t : State} (hb : s.regs.state = .busy) (hk : s.regs.k.toNat ≤ 4) (h : step s = .next t) :
    (∃ u, s.CoreHasTurn u ∧
      ((s.regs.k.toNat ≤ 3 ∧ t = u.accStep (s.regs.k.extractLsb' 0 1) (s.regs.k.extractLsb' 1 1)) ∨
       (s.regs.k = 4 ∧ t = u.emitStep))) ∨
    (∃ a l rs, s.inputs = a :: l ∧ t = s.afterHost a l rs) ∨
    (∃ l, s.inputs = .reset :: l ∧ t = (s.setInputs l).resetRegs) := by
  have ht {t' : State} (h' : step s = .next t') : t = t' := Host.Outcome.next.inj (h.symm.trans h')
  have hcore {u : State} (hu : s.CoreHasTurn u) := (step_core hu hb hk).imp (And.imp_right ht) (And.imp_right ht)
  cases hi : s.inputs with
  | nil =>
    have hu : s.CoreHasTurn s := .inl ⟨hi, rfl⟩
    exact .inl ⟨s, hu, hcore hu⟩
  | cons a l =>
    by_cases ha : a = .coreTurn
    · have hu : s.CoreHasTurn (s.setInputs l) := .inr ⟨l, ha ▸ hi, rfl⟩
      exact .inl ⟨_, hu, hcore hu⟩
    · by_cases hr : a = .reset
      · subst hr
        exact .inr (.inr ⟨l, rfl, ht (step_reset hi)⟩)
      · obtain ⟨rs, hstep⟩ := step_host_busy hb hi ha hr
        exact .inr (.inl ⟨a, l, rs, rfl, ht hstep⟩)

/-! ### R100 -/

/-- Outside a run the machine stays as it is for as long as nothing comes from outside, by induction on the steps. -/
theorem run_rest {s : State} (hb : s.regs.state ≠ .busy) (hi : s.inputs = []) (n : Nat) :
    Host.Core.run Sys2Proof.core n s = .next s := by
  induction n with
  | zero => exact run_zero s
  | succ n ih => rw [run_succ (step_of_coreHasTurn_rest (.inl ⟨hi, rfl⟩) hb), ih]

/-- A step of a BUSY core moves the phase: on by one after ACC, from 4 to 0 after EMIT. -/
theorem step_core_changes_k {s u : State} (h : s.CoreHasTurn u) (hb : s.regs.state = .busy)
    (hk : s.regs.k.toNat ≤ 4) : ∃ t, step s = .next t ∧ t.regs.k ≠ s.regs.k := by
  rcases step_core h hb hk with ⟨hk3, hstep⟩ | ⟨hk4, hstep⟩
  · refine ⟨_, hstep, fun heq => ?_⟩
    have hnat := congrArg BitVec.toNat heq
    rw [State.accStep_k_toNat, h.regs] at hnat
    omega
  · refine ⟨_, hstep, fun heq => ?_⟩
    rw [u.emitStep_cleared.1, hk4] at heq
    exact absurd heq (by decide)

/-- Settles O10, a clause at a time: the core at rest, the core's step, and the host's steps. -/
theorem coreStepsExactlyWhenBusy : Obligations.CoreStepsExactlyWhenBusy := by
  refine ⟨fun s hb hi => run_rest hb hi, fun s l hb hi => step_of_coreHasTurn_rest (.inr ⟨l, hi, rfl⟩) hb,
    fun s hb hk hi => ?core, fun s a l hb hi hcore hreset => ?host⟩
  case core =>
    obtain ⟨t, hstep, hne⟩ := step_core_changes_k (.inl ⟨hi, rfl⟩) hb hk
    exact ⟨t, hstep, fun heq => hne (by rw [heq])⟩
  case host =>
    obtain ⟨rs, hstep⟩ := step_host_busy hb hi hcore hreset
    exact ⟨_, hstep, rfl, rfl⟩

end Sys2Proof.Machine
end

section
/-! PROOFS. The invariant of 42_sequencer.md: every step keeps the bounds of R108, and with them the effective addresses
of R102 are exact. -/

namespace Sys2Proof.Machine

open Sys2Proof

/-! ### The invariant, in its registers and its memories (R108) -/

/-- STATE and ERR agree, in ERROR and elsewhere (R12). -/
theorem Regs.errOk_iff (r : Regs) : r.ErrOk ↔
    (r.state = .error → r.err = .channelCountMismatch ∨ r.err = .unsupportedBitDepth) ∧
    (r.state ≠ .error → r.err = .none) := by
  unfold Regs.ErrOk
  cases r.state <;> simp

/-- ERR 0 agrees with every STATE but ERROR (R12). -/
theorem Regs.errOk_of_none {r : Regs} (hs : r.state ≠ .error) (he : r.err = .none) : r.ErrOk :=
  (Regs.errOk_iff r).2 ⟨fun h => absurd h hs, fun _ => he⟩

/-- What the invariant says of the registers. -/
structure Regs.Sound (r : Regs) : Prop where
  /-- ERR agrees with STATE (R12). -/
  err : r.ErrOk
  /-- The output dimensions are halves of 16-bit values (R17, R18). -/
  halves : r.outWidth.toNat ≤ 32767 ∧ r.outHeight.toNat ≤ 32767
  /-- They read 0 before the first START and after a refused one (R29, R144). -/
  noResult : r.state = .idle ∨ r.state = .error → r.outWidth = 0 ∧ r.outHeight = 0
  /-- During a run (R108). -/
  run : r.state = .busy → r.RunOk
  /-- Outside a run (R108). -/
  rest : r.state ≠ .busy → r.RestOk

/-- The invariant is what it says of the registers, and the canonical form of the memories. -/
theorem State.inv_iff (s : State) : s.Inv ↔ s.regs.Sound ∧ s.src.wf ∧ s.dst.wf :=
  ⟨fun ⟨he, hh, hn, hr, hs, hsrc, hdst⟩ => ⟨⟨he, hh, hn, hr, hs⟩, hsrc, hdst⟩,
    fun ⟨⟨he, hh, hn, hr, hs⟩, hsrc, hdst⟩ => ⟨he, hh, hn, hr, hs, hsrc, hdst⟩⟩

/-- In a sound run ERR is 0 (R12). -/
theorem Regs.Sound.err_of_ne_error {r : Regs} (h : r.Sound) (hs : r.state ≠ .error) : r.err = .none :=
  ((Regs.errOk_iff r).1 h.err).2 hs

/-! ### Registers outside a run -/

/-- The registers after reset (R29). -/
theorem Regs.reset_sound : (Regs.reset : Regs).Sound :=
  ((State.inv_iff _).1 resetSatisfiesTheInvariant).1

/-- The configuration is in no clause but those of a run (R125). -/
theorem Regs.Sound.config {r : Regs} (h : r.Sound) (hb : r.state ≠ .busy) (wd ht : Dim) (ch : BitVec 4)
    (dp : BitVec 5) : Regs.Sound { r with width := wd, height := ht, channels := ch, depth := dp } :=
  ⟨h.err, h.halves, h.noResult, fun hb' => absurd hb' hb, fun _ => ⟨(h.rest hb).y, (h.rest hb).x, (h.rest hb).k,
    (h.rest hb).acc⟩⟩

/-- The registers after an error entry with one of the two codes of START (R144). -/
theorem State.raise_sound (s : State) {code : ErrCode}
    (h : code = .channelCountMismatch ∨ code = .unsupportedBitDepth) : (s.raise code).regs.Sound where
  err := h
  halves := ⟨Nat.zero_le _, Nat.zero_le _⟩
  noResult _ := ⟨rfl, rfl⟩
  run hb := absurd hb RunState.noConfusion
  rest _ := ⟨rfl, rfl, rfl, rfl⟩

/-- Half of a dimension has its top bit clear (R17, R18). -/
theorem half_le (d : Dim) : (d >>> 1).toNat ≤ 32767 := by
  have hd := d.isLt
  rw [half_toNat]
  omega

/-- The state after START with the right format: BUSY when both halves are positive, else DONE (R79, R127). -/
theorem State.beginRun_state_cases (s : State) :
    ((2 ≤ s.regs.width.toNat ∧ 2 ≤ s.regs.height.toNat) ∧ s.beginRun.regs.state = .busy) ∨
    ((s.regs.width.toNat < 2 ∨ s.regs.height.toNat < 2) ∧ s.beginRun.regs.state = .done) := by
  rw [State.beginRun_regs]
  by_cases hz : s.regs.width >>> 1 = 0 ∨ s.regs.height >>> 1 = 0
  · exact .inr ⟨hz.imp (half_eq_zero _).1 (half_eq_zero _).1, if_pos hz⟩
  · refine .inl ⟨?_, if_neg hz⟩
    rw [half_eq_zero, half_eq_zero] at hz
    omega

/-- The bounds of a run hold at its beginning: position, phase and accumulators are 0 (R127). -/
theorem State.beginRun_runOk (s : State) (hw : 2 ≤ s.regs.width.toNat) (hh : 2 ≤ s.regs.height.toNat) :
    s.beginRun.regs.RunOk where
  outWidth := half_toNat s.regs.width
  outHeight := half_toNat s.regs.height
  x := (Nat.div_pos hw two_pos).trans_eq (half_toNat s.regs.width).symm
  y := (Nat.div_pos hh two_pos).trans_eq (half_toNat s.regs.height).symm
  k := Nat.zero_le _
  acc c := by
    rw [State.beginRun_regs, Lanes.get_same]
    exact Nat.zero_le _

/-- The registers after START with the right format (R127). -/
theorem State.beginRun_sound (s : State) : s.beginRun.regs.Sound := by
  have hhalves : s.beginRun.regs.outWidth.toNat ≤ 32767 ∧ s.beginRun.regs.outHeight.toNat ≤ 32767 :=
    ⟨half_le _, half_le _⟩
  rcases s.beginRun_state_cases with ⟨⟨hw, hh⟩, hst⟩ | ⟨_, hst⟩
  · exact ⟨Regs.errOk_of_none (by simp [hst]) rfl, hhalves, by simp [hst], fun _ => s.beginRun_runOk hw hh,
      by simp [hst]⟩
  · exact ⟨Regs.errOk_of_none (by simp [hst]) rfl, hhalves, by simp [hst], by simp [hst],
      fun _ => ⟨rfl, rfl, rfl, rfl⟩⟩

/-- The registers after START (R127, R137). -/
theorem State.start_sound {s : State} (h : s.regs.Sound) : s.start.regs.Sound := by
  rcases s.start_cases with ⟨_, he⟩ | ⟨_, _, he⟩ | ⟨_, _, _, he⟩ | ⟨_, _, _, he⟩ <;> rw [he]
  · exact h
  · exact s.raise_sound (.inl rfl)
  · exact s.raise_sound (.inr rfl)
  · exact s.beginRun_sound

/-- The registers after a host transaction. -/
theorem exec_txn_sound {w : TxnWord} {s t : State} (hx : exec (decodeTxn w) s = .next t) (h : s.regs.Sound) :
    t.regs.Sound := by
  rcases exec_txn_cases hx with ⟨v, rfl⟩ | ⟨wd, ht, ch, dp, rfl⟩ | ⟨v, _, rfl⟩ | rfl
  · exact h
  · rcases s.configWrite_cases { s.regs with width := wd, height := ht, channels := ch, depth := dp } with
      ⟨_, he⟩ | ⟨hb, he⟩ <;> rw [he]
    · exact h
    · exact h.config hb wd ht ch dp
  · exact State.start_sound h
  · exact h

/-! ### Registers during a run -/

/-- One step of the phase while it is at most 3 (R103). -/
theorem State.accStep_k_toNat_of_le {s : State} (hk : s.regs.k.toNat ≤ 3) (dx dy : BitVec 1) :
    (s.accStep dx dy).regs.k.toNat = s.regs.k.toNat + 1 := by
  rw [State.accStep_k_toNat, Nat.mod_eq_of_lt (by omega)]

/-- In a run an ACC step adds the sample with no wrap (R91, R94). -/
theorem State.accStep_acc_toNat_of_run {s : State} (hrun : s.regs.RunOk) (hk : s.regs.k.toNat ≤ 3) (dx dy : BitVec 1)
    (c : Fin 3) : ((s.accStep dx dy).regs.acc.get c).toNat =
      (s.regs.acc.get c).toNat + (chan16 (s.srcRead (s.regs.srcIndex dx dy)) c).toNat := by
  rw [State.accStep_regs, accumulate_get,
    accLane_toNat_of_le (by decide) ((hrun.acc c).trans (Nat.mul_le_mul_right _ hk))]

/-- ACC keeps the bounds of a run: the phase stays at most 4, and a sample is at most 65535 (R103). -/
theorem State.accStep_runOk {s : State} (hrun : s.regs.RunOk) (hk : s.regs.k.toNat ≤ 3) (dx dy : BitVec 1) :
    (s.accStep dx dy).regs.RunOk where
  outWidth := hrun.outWidth
  outHeight := hrun.outHeight
  x := hrun.x
  y := hrun.y
  k := by
    rw [State.accStep_k_toNat_of_le hk]
    omega
  acc c := by
    have hacc := hrun.acc c
    have hv := (chan16 (s.srcRead (s.regs.srcIndex dx dy)) c).isLt
    rw [State.accStep_acc_toNat_of_run hrun hk, State.accStep_k_toNat_of_le hk]
    omega

/-- The registers after ACC in a run: STATE, ERR and the output dimensions stay (R103). -/
theorem State.accStep_sound {s : State} (h : s.regs.Sound) (hb : s.regs.state = .busy) (hk : s.regs.k.toNat ≤ 3)
    (dx dy : BitVec 1) : (s.accStep dx dy).regs.Sound :=
  ⟨h.err, h.halves, h.noResult, fun _ => State.accStep_runOk (h.run hb) hk dx dy, fun hne => absurd hb hne⟩

/-- EMIT keeps the bounds of a run that goes on: a coordinate moves on only below its bound (R104). -/
theorem State.emitStep_runOk {s : State} (hrun : s.regs.RunOk) (hb : s.emitStep.regs.state = .busy) :
    s.emitStep.regs.RunOk := by
  obtain ⟨hk, hacc⟩ := s.emitStep_cleared
  have hk0 : s.emitStep.regs.k.toNat ≤ 4 := by rw [hk]; decide
  have hacc0 (c : Fin 3) : (s.emitStep.regs.acc.get c).toNat ≤ s.emitStep.regs.k.toNat * 65535 := by
    rw [hacc, Lanes.get_same]
    exact Nat.zero_le _
  rcases s.emitStep_regs_cases with ⟨hx, h⟩ | ⟨_, hy, h⟩ | ⟨_, _, h⟩ <;> rw [h] at hb hk0 hacc0 ⊢
  · exact ⟨hrun.outWidth, hrun.outHeight, (succ_toNat hx).trans_lt hx, hrun.y, hk0, hacc0⟩
  · exact ⟨hrun.outWidth, hrun.outHeight, (Nat.zero_le _).trans_lt hrun.x, (succ_toNat hy).trans_lt hy, hk0, hacc0⟩
  · exact absurd hb RunState.noConfusion

/-- A run that EMIT does not end goes on, and one that it ends is DONE with the scan at rest (R104). -/
theorem State.emitStep_state_cases {s : State} (hb : s.regs.state = .busy) :
    s.emitStep.regs.state = .busy ∨ (s.emitStep.regs.state = .done ∧ s.emitStep.regs.RestOk) := by
  rcases s.emitStep_regs_cases with ⟨_, h⟩ | ⟨_, _, h⟩ | ⟨_, _, h⟩ <;> rw [h]
  · exact .inl hb
  · exact .inl hb
  · exact .inr ⟨rfl, rfl, rfl, rfl, rfl⟩

/-- The registers after EMIT in a run (R104). -/
theorem State.emitStep_sound {s : State} (h : s.regs.Sound) (hb : s.regs.state = .busy) : s.emitStep.regs.Sound := by
  have herr : s.emitStep.regs.err = .none :=
    (congrArg (fun t : State => t.regs.err) s.emitStep_frame).trans (h.err_of_ne_error (by simp [hb]))
  obtain ⟨how, hoh⟩ := s.emitStep_outDims
  have hhalves := how.symm ▸ hoh.symm ▸ h.halves
  rcases State.emitStep_state_cases hb with hst | ⟨hst, hrest⟩
  · exact ⟨Regs.errOk_of_none (by simp [hst]) herr, hhalves, by simp [hst],
      fun _ => State.emitStep_runOk (h.run hb) hst, by simp [hst]⟩
  · exact ⟨Regs.errOk_of_none (by simp [hst]) herr, hhalves, by simp [hst], by simp [hst], fun _ => hrest⟩

/-! ### Every step keeps the invariant -/

/-- ACC in a run keeps the invariant. -/
theorem State.Inv.accStep {s : State} (h : s.Inv) (hb : s.regs.state = .busy) (hk : s.regs.k.toNat ≤ 3)
    (dx dy : BitVec 1) : (s.accStep dx dy).Inv := by
  obtain ⟨hr, hsrc, hdst⟩ := (State.inv_iff s).1 h
  exact (State.inv_iff _).2 ⟨State.accStep_sound hr hb hk _ _, hsrc, hdst⟩

/-- EMIT in a run keeps the invariant. -/
theorem State.Inv.emitStep {s : State} (h : s.Inv) (hb : s.regs.state = .busy) : s.emitStep.Inv := by
  obtain ⟨hr, hsrc, hdst⟩ := (State.inv_iff s).1 h
  exact (State.inv_iff _).2 ⟨State.emitStep_sound hr hb, hsrc, Memory.wf_write_index _ _ hdst⟩

/-- A host transaction writes neither memory (R120). -/
theorem exec_txn_memories {w : TxnWord} {s t : State} (hx : exec (decodeTxn w) s = .next t) :
    t.src = s.src ∧ t.dst = s.dst := by
  obtain ⟨hsrc, _, _, hdst, _⟩ := onlyEmitWritesAPixel _ _ _ hx
  exact ⟨hsrc, hdst (decodeTxn_not_uop w).2⟩

/-- Settles O43, by what a step can do: the registers by the operation's rule, a pixel write by the canonical form. -/
theorem everyStepKeepsTheInvariant : Obligations.EveryStepKeepsTheInvariant := by
  intro s t hinv h
  obtain ⟨hr, hsrc, hdst⟩ := (State.inv_iff s).1 hinv
  rcases step_cases h with ⟨s', hs', hcore⟩ | ⟨w, l, _, hx⟩ | ⟨a, p, l, _, rfl⟩ | ⟨a, l, _, rfl⟩ |
    ⟨a, v, l, _, rfl⟩ | ⟨a, l, _, rfl⟩ | ⟨l, _, rfl⟩
  case inl =>
    have hinv' : s'.Inv := by
      rcases hs' with ⟨rfl, _⟩ | ⟨l, _, rfl⟩
      · exact hinv
      · exact (State.inv_iff _).2 ⟨hr, hsrc, hdst⟩
    rcases hcore with ⟨_, rfl⟩ | ⟨hb, hk, rfl⟩ | ⟨hb, _, rfl⟩
    · exact hinv'
    · exact hinv'.accStep hb hk _ _
    · exact hinv'.emitStep hb
  case inr.inl =>
    obtain ⟨hs, hd⟩ := exec_txn_memories hx
    exact (State.inv_iff _).2 ⟨exec_txn_sound (s := s.setInputs l) hx hr, hs ▸ hsrc, hd ▸ hdst⟩
  case inr.inr.inl => exact (State.inv_iff _).2 ⟨hr, Memory.wf_write_index a p hsrc, hdst⟩
  case inr.inr.inr.inr.inl => exact (State.inv_iff _).2 ⟨hr, hsrc, Memory.wf_write_index a v hdst⟩
  case inr.inr.inr.inr.inr.inr => exact (State.inv_iff _).2 ⟨Regs.reset_sound, hsrc, hdst⟩
  all_goals exact (State.inv_iff _).2 ⟨hr, hsrc, hdst⟩

/-! ### Effective addresses (R102) -/

/-- During a run the effective addresses are exact and lie inside the buffers, by the width that suffices for any
`DIMW`. -/
theorem Regs.RunOk.addresses {r : Regs} (h : r.RunOk) :
    (∀ dx dy : BitVec 1, (r.srcIndex dx dy).toNat =
        (2 * r.y.toNat + dy.toNat) * r.width.toNat + (2 * r.x.toNat + dx.toNat) ∧
      (r.srcIndex dx dy).toNat < r.height.toNat * r.width.toNat) ∧
    r.dstIndex.toNat = r.y.toNat * r.outWidth.toNat + r.x.toNat ∧
    r.dstIndex.toNat < r.outHeight.toNat * r.outWidth.toNat :=
  addressWidthFollowsFromTheDimensions 32 16 r h.outWidth h.outHeight h.x h.y

/-- Settles O34: the addresses of a run, and the largest output buffer has fewer than 2^30 pixels. -/
theorem effectiveAddressesStayInTheBuffers : Obligations.EffectiveAddressesStayInTheBuffers := by
  intro s hinv hb
  have hrun : s.regs.RunOk := hinv.run hb
  obtain ⟨how, hoh⟩ := hinv.halves
  obtain ⟨hsrc, hdst, hdstlt⟩ := hrun.addresses
  refine ⟨fun dx dy => ?_, hdst, hdstlt, ?_⟩
  · obtain ⟨heq, hlt⟩ := hsrc dx dy
    exact ⟨heq, blockPixel_lt (hrun.outWidth ▸ hrun.x) dx, blockPixel_lt (hrun.outHeight ▸ hrun.y) dy, hlt⟩
  · calc s.regs.dstIndex.toNat < s.regs.outHeight.toNat * s.regs.outWidth.toNat := hdstlt
      _ ≤ 32767 * 32767 := Nat.mul_le_mul hoh how
      _ < 2 ^ 30 := by decide

end Sys2Proof.Machine
end

section
/-! PROOFS. The length and the order of a run (42_sequencer.md R105 to R107, R110): each turn of the core takes one from
the steps left, and what is left tells where the scan is. -/

namespace Sys2Proof.Machine

open Sys2Proof

/-! ### Raster indices (R102) -/

/-- The column and the row of a raster index. -/
theorem rasterIndex_mod_div {col w : Nat} (h : col < w) (row : Nat) :
    (row * w + col) % w = col ∧ (row * w + col) / w = row := by
  rw [Nat.mul_comm, Nat.mul_add_mod, Nat.mod_eq_of_lt h, Nat.mul_add_div (by omega), Nat.div_eq_of_lt h]
  exact ⟨rfl, rfl⟩

/-- How many output pixels have been written: the raster index of the next one, which is the destination index of R102 as
an exact number (`Regs.RunOk.addresses`). -/
def Regs.pixelsDone (r : Regs) : Nat := r.y.toNat * r.outWidth.toNat + r.x.toNat

/-- How many output pixels the run writes. -/
def Regs.pixels (r : Regs) : Nat := r.outWidth.toNat * r.outHeight.toNat

/-- During a run a pixel is left to write. -/
theorem Regs.RunOk.pixelsDone_lt {r : Regs} (h : r.RunOk) : r.pixelsDone < r.pixels :=
  (rasterIndex_lt h.y h.x).trans_eq (Nat.mul_comm _ _)

/-- EMIT goes on to the next pixel of the raster, or ends the run at the last one (R104, R105). -/
theorem State.emitStep_pixelsDone {s : State} (hrun : s.regs.RunOk) (hb : s.regs.state = .busy) :
    (s.emitStep.regs.state = .busy ∧ s.emitStep.regs.pixelsDone = s.regs.pixelsDone + 1) ∨
    (s.emitStep.regs.state = .done ∧ s.regs.pixelsDone + 1 = s.regs.pixels) := by
  have hx := hrun.x
  have hy := hrun.y
  unfold Regs.pixelsDone Regs.pixels
  rcases s.emitStep_regs_cases with ⟨hx', h⟩ | ⟨hx', hy', h⟩ | ⟨hx', hy', h⟩ <;> rw [h]
  · refine .inl ⟨hb, ?_⟩
    rw [succ_toNat hx', ← Nat.add_assoc]
  · refine .inl ⟨hb, ?_⟩
    have hlast : s.regs.outWidth.toNat = s.regs.x.toNat + 1 := by omega
    show (s.regs.y + 1).toNat * s.regs.outWidth.toNat + 0 = _
    rw [succ_toNat hy', Nat.succ_mul]
    omega
  · refine .inr ⟨rfl, ?_⟩
    have hlast : s.regs.outWidth.toNat = s.regs.x.toNat + 1 := by omega
    have hlastRow : s.regs.outHeight.toNat = s.regs.y.toNat + 1 := by omega
    rw [hlastRow, Nat.mul_comm, Nat.mul_succ, Nat.mul_comm]
    omega

/-! ### The steps left (R110) -/

/-- Outside a run no step is left. -/
theorem Regs.stepsLeft_of_ne_busy {r : Regs} (h : r.state ≠ .busy) : r.stepsLeft = 0 := if_neg h

/-- During a run five steps are left for each pixel, less those of its block already taken. -/
theorem Regs.stepsLeft_of_busy {r : Regs} (h : r.state = .busy) :
    r.stepsLeft = 5 * (r.pixels - r.pixelsDone) - r.k.toNat := if_pos h

/-- The same with the phase on the other side: nothing is cut off. -/
theorem Regs.RunOk.stepsLeft_add_k {r : Regs} (h : r.RunOk) (hb : r.state = .busy) :
    r.stepsLeft + r.k.toNat = 5 * (r.pixels - r.pixelsDone) := by
  have hlt := h.pixelsDone_lt
  have hk := h.k
  rw [Regs.stepsLeft_of_busy hb]
  omega

/-- No step is left exactly when no run is in progress. -/
theorem Regs.Sound.stepsLeft_eq_zero_iff {r : Regs} (h : r.Sound) : r.stepsLeft = 0 ↔ r.state ≠ .busy := by
  refine ⟨fun h0 hb => ?_, Regs.stepsLeft_of_ne_busy⟩
  have hsum := (h.run hb).stepsLeft_add_k hb
  have hlt := (h.run hb).pixelsDone_lt
  have hk := (h.run hb).k
  omega

/-- The number of output pixels of a run that begins (R72). -/
theorem State.beginRun_pixels (s : State) :
    s.beginRun.regs.pixels = (s.regs.width.toNat / 2) * (s.regs.height.toNat / 2) :=
  congrArg₂ (· * ·) (half_toNat s.regs.width) (half_toNat s.regs.height)

/-- START sets five steps for each output pixel, which is none when there is no output pixel (R110). -/
theorem State.beginRun_stepsLeft (s : State) :
    s.beginRun.regs.stepsLeft = 5 * (s.regs.width.toNat / 2) * (s.regs.height.toNat / 2) := by
  rcases s.beginRun_state_cases with ⟨_, hst⟩ | ⟨hsmall, hst⟩
  · have hdone : s.beginRun.regs.pixelsDone = 0 := Nat.zero_mul _
    have hk : s.beginRun.regs.k.toNat = 0 := rfl
    rw [Regs.stepsLeft_of_busy hst, s.beginRun_pixels, hdone, hk, Nat.sub_zero, Nat.sub_zero, Nat.mul_assoc]
  · rw [Regs.stepsLeft_of_ne_busy (by rw [hst]; exact RunState.noConfusion)]
    rcases hsmall with hw | hh
    · rw [Nat.div_eq_of_lt hw, Nat.mul_zero, Nat.zero_mul]
    · rw [Nat.div_eq_of_lt hh, Nat.mul_zero]

/-- An ACC step of a run stays in the block: `p` pixels are left before and after (R103). -/
theorem State.accStep_stepsLeft {s : State} (hrun : s.regs.RunOk) (hb : s.regs.state = .busy)
    (hk : s.regs.k.toNat ≤ 3) (dx dy : BitVec 1) :
    (s.accStep dx dy).regs.stepsLeft + (s.accStep dx dy).regs.k.toNat =
      5 * (s.regs.pixels - s.regs.pixelsDone) :=
  (State.accStep_runOk hrun hk dx dy).stepsLeft_add_k hb

/-- An EMIT step of a run leaves one pixel fewer (R104). -/
theorem State.emitStep_stepsLeft {s : State} (hrun : s.regs.RunOk) (hb : s.regs.state = .busy) :
    s.emitStep.regs.stepsLeft + 5 = 5 * (s.regs.pixels - s.regs.pixelsDone) := by
  have hlt := hrun.pixelsDone_lt
  have hk : s.emitStep.regs.k.toNat = 0 := by rw [s.emitStep_cleared.1]; rfl
  have hpixels : s.emitStep.regs.pixels = s.regs.pixels := by
    unfold Regs.pixels
    rw [s.emitStep_outDims.1, s.emitStep_outDims.2]
  rcases State.emitStep_pixelsDone hrun hb with ⟨hst, hnext⟩ | ⟨hst, hlast⟩
  · rw [Regs.stepsLeft_of_busy hst, hpixels, hnext, hk]
    omega
  · rw [Regs.stepsLeft_of_ne_busy (by rw [hst]; exact RunState.noConfusion)]
    omega

/-- Settles O47, a clause at a time: START, the states with no step left, the core's turn, and the host's actions. -/
theorem runTakesFiveStepsPerPixel : Obligations.RunTakesFiveStepsPerPixel := by
  refine ⟨fun v s _ hb => ⟨s.start, rfl, fun ⟨hc, hd⟩ => ?begin, fun hformat => ?refuse⟩,
    fun s hinv => ((State.inv_iff s).1 hinv).1.stepsLeft_eq_zero_iff, fun s u hinv hb hturn => ?turn,
    fun s a l hb hi hcore hreset => ?host⟩
  case begin =>
    rw [State.start_accepted hb hc hd]
    exact s.beginRun_stepsLeft
  case refuse =>
    rcases s.start_cases with ⟨hb', _⟩ | ⟨_, _, he⟩ | ⟨_, _, _, he⟩ | ⟨_, hc, hd, _⟩
    · exact absurd hb' hb
    · rw [he]
      exact Regs.stepsLeft_of_ne_busy RunState.noConfusion
    · rw [he]
      exact Regs.stepsLeft_of_ne_busy RunState.noConfusion
    · exact absurd ⟨hc, hd⟩ hformat
  case turn =>
    have hregs : u.regs = s.regs := State.CoreHasTurn.regs hturn
    have hrun : s.regs.RunOk := hinv.run hb
    have hsum := hrun.stepsLeft_add_k hb
    rcases step_core hturn hb hrun.k with ⟨hk, hstep⟩ | ⟨hk, hstep⟩
    · rw [← hregs] at hb hrun hsum hk hstep ⊢
      have hleft := State.accStep_stepsLeft hrun hb hk (u.regs.k.extractLsb' 0 1) (u.regs.k.extractLsb' 1 1)
      have hnext := State.accStep_k_toNat_of_le hk (u.regs.k.extractLsb' 0 1) (u.regs.k.extractLsb' 1 1)
      exact ⟨_, _, hstep, by omega, hsum, hrun.k, fun _ => ⟨⟨_, _, exec_acc _ _ u⟩, hnext, hleft⟩, fun hk' => by omega⟩
    · rw [← hregs] at hb hrun hsum hk ⊢
      have hleft := State.emitStep_stepsLeft hrun hb
      have hk4 : u.regs.k.toNat = 4 := by rw [hk]; rfl
      exact ⟨_, _, hstep, by omega, hsum, hrun.k, fun hk' => by omega,
        fun _ => ⟨exec_emit u, u.emitStep_cleared.1, hleft⟩⟩
  case host =>
    obtain ⟨rs, hstep⟩ := step_host_busy hb hi hcore hreset
    exact ⟨_, hstep, rfl⟩

/-! ### What a step of a run leaves unchanged -/

/-- What lies between two states of a run, when the outside has performed the actions `l`: the dimensions are the same,
SRC changes only where the host writes it, and so does DST outside the output buffer (R30, R34, R125). -/
structure State.RunFrame (s t : State) (l : List HostAction) : Prop where
  width : t.regs.width = s.regs.width
  height : t.regs.height = s.regs.height
  outWidth : t.regs.outWidth = s.regs.outWidth
  outHeight : t.regs.outHeight = s.regs.outHeight
  powerUp : t.powerUp = s.powerUp
  src : ∀ a, (∀ i p, .writeSrc i p ∈ l → i.toNat ≠ a) → t.src.read a = s.src.read a
  dst : ∀ a, s.regs.pixels ≤ a → (∀ i o, .writeDst i o ∈ l → i.toNat ≠ a) → t.dst.read a = s.dst.read a

section RunFrame

variable {s t u : State} {l l' : List HostAction}

/-- Nothing has happened yet. -/
theorem State.RunFrame.refl (s : State) : s.RunFrame s [] :=
  ⟨rfl, rfl, rfl, rfl, rfl, fun _ _ => rfl, fun _ _ _ => rfl⟩

/-- One part of a run after another. -/
theorem State.RunFrame.trans (h : s.RunFrame t l) (h' : t.RunFrame u l') : s.RunFrame u (l ++ l') := by
  have hpixels : t.regs.pixels = s.regs.pixels := by
    unfold Regs.pixels
    rw [h.outWidth, h.outHeight]
  refine ⟨h'.width.trans h.width, h'.height.trans h.height, h'.outWidth.trans h.outWidth,
    h'.outHeight.trans h.outHeight, h'.powerUp.trans h.powerUp, fun a ha => ?_, fun a hle ha => ?_⟩
  · rw [h'.src a fun i p hm => ha i p (List.mem_append_right _ hm),
      h.src a fun i p hm => ha i p (List.mem_append_left _ hm)]
  · rw [h'.dst a (hpixels.trans_le hle) fun i o hm => ha i o (List.mem_append_right _ hm),
      h.dst a hle fun i o hm => ha i o (List.mem_append_left _ hm)]

/-- The turn itself changes nothing. -/
theorem State.CoreHasTurn.frame (h : s.CoreHasTurn u) : s.RunFrame u [] := by
  rcases h with ⟨_, rfl⟩ | ⟨l, _, rfl⟩
  · exact State.RunFrame.refl u
  · exact ⟨rfl, rfl, rfl, rfl, rfl, fun _ _ => rfl, fun _ _ _ => rfl⟩

/-- ACC writes no memory and no dimension. -/
theorem State.accStep_runFrame (s : State) (dx dy : BitVec 1) : s.RunFrame (s.accStep dx dy) [] :=
  ⟨rfl, rfl, rfl, rfl, rfl, fun _ _ => rfl, fun _ _ _ => rfl⟩

/-- EMIT leaves the dimensions of the source (R104). -/
theorem State.emitStep_dims (s : State) :
    s.emitStep.regs.width = s.regs.width ∧ s.emitStep.regs.height = s.regs.height := by
  rw [State.emitStep_regs, Regs.advance_eq]
  exact ⟨rfl, rfl⟩

/-- EMIT writes inside the output buffer and no dimension. -/
theorem State.emitStep_runFrame (hrun : s.regs.RunOk) : s.RunFrame s.emitStep [] := by
  obtain ⟨hw, hh⟩ := s.emitStep_dims
  obtain ⟨how, hoh⟩ := s.emitStep_outDims
  refine ⟨hw, hh, how, hoh, rfl, fun _ _ => rfl, fun a hle _ => ?_⟩
  obtain ⟨_, hdst, _⟩ := hrun.addresses
  have hlt : s.regs.dstIndex.toNat < s.regs.pixels := hdst.trans_lt hrun.pixelsDone_lt
  rw [State.emitStep_dst, Memory.read_write_other _ _ (by omega)]

/-- The host writes the memories where its action says, and no dimension. -/
theorem State.afterHost_runFrame (s : State) (a : HostAction) (l : List HostAction) (rs : List Reply) :
    s.RunFrame (s.afterHost a l rs) [a] := by
  refine ⟨rfl, rfl, rfl, rfl, rfl, fun b hb => ?_, fun b _ hb => ?_⟩
  · cases a with
    | writeSrc i p => exact Memory.read_write_other _ _ (hb i p List.mem_cons_self).symm
    | _ => rfl
  · cases a with
    | writeDst i o => exact Memory.read_write_other _ _ (hb i o List.mem_cons_self).symm
    | _ => rfl

end RunFrame

/-- The core's turn in a run: one step fewer is left, and the run goes on or is DONE. -/
theorem step_core_run {s u : State} (hinv : s.Inv) (hb : s.regs.state = .busy) (h : s.CoreHasTurn u) :
    ∃ t, step s = .next t ∧ t.inputs = u.inputs ∧ t.regs.stepsLeft + 1 = s.regs.stepsLeft ∧ s.RunFrame t [] ∧
      (t.regs.state = .busy ∨ t.regs.state = .done) := by
  have hrun : u.regs.RunOk := h.regs ▸ hinv.run hb
  obtain ⟨t, _, hstep, hleft, _⟩ := runTakesFiveStepsPerPixel.2.2.1 s u hinv hb h
  rcases step_core h hb (hinv.run hb).k with ⟨_, he⟩ | ⟨_, he⟩ <;> cases hstep.symm.trans he
  · exact ⟨_, hstep, rfl, hleft, h.frame.trans (u.accStep_runFrame _ _), .inl (h.regs ▸ hb)⟩
  · exact ⟨_, hstep, rfl, hleft, h.frame.trans (State.emitStep_runFrame hrun),
      (State.emitStep_state_cases (h.regs ▸ hb)).imp_right And.left⟩

/-- A run is in progress while a step is left. -/
theorem Regs.busy_of_stepsLeft_pos {r : Regs} (h : 0 < r.stepsLeft) : r.state = .busy := by
  by_contra hb
  exact h.ne' (Regs.stepsLeft_of_ne_busy hb)

/-! ### The order of a run (R105 to R107) -/

/-- Fewer core steps than are left of a run: each takes one from the steps left, by induction on their number. -/
theorem run_core (n : Nat) {s : State} (hinv : s.Inv) (hi : s.inputs = []) (hn : n < s.regs.stepsLeft) :
    ∃ t : State, Host.Core.run Sys2Proof.core n s = .next t ∧ t.Inv ∧ t.regs.stepsLeft + n = s.regs.stepsLeft ∧
      s.RunFrame t [] := by
  induction n generalizing s with
  | zero => exact ⟨s, run_zero s, hinv, rfl, State.RunFrame.refl s⟩
  | succ n ih =>
    have hb : s.regs.state = .busy := Regs.busy_of_stepsLeft_pos (by omega)
    obtain ⟨t, hstep, hi', hleft, hframe, _⟩ := step_core_run hinv hb (.inl ⟨hi, rfl⟩)
    obtain ⟨v, hv, hvinv, hvleft, hvframe⟩ :=
      ih (everyStepKeepsTheInvariant s t hinv hstep) (hi'.trans hi) (by omega)
    exact ⟨v, (run_succ hstep n).trans hv, hvinv, by omega, hframe.trans hvframe⟩

/-- Settles O49: the steps left after `5 * m + j` of them determine the phase and the number of pixels written, and the
latter the column and the row. -/
theorem scanVisitsTheBlocksInRasterOrder : Obligations.ScanVisitsTheBlocksInRasterOrder := by
  intro s m j hinv hb hy hx hk hi hj hm
  have hdone : s.regs.pixelsDone = 0 := by
    unfold Regs.pixelsDone
    rw [hy, hx]
    exact Nat.zero_mul _
  have hstart : s.regs.stepsLeft + 0 = 5 * (s.regs.pixels - 0) := by
    rw [← hdone, ← (hinv.run hb).stepsLeft_add_k hb, hk, hdone]
    rfl
  have hm' : m < s.regs.pixels := hm
  obtain ⟨t, ht, htinv, hleft, hframe⟩ := run_core (5 * m + j) hinv hi (by omega)
  have htb : t.regs.state = .busy := Regs.busy_of_stepsLeft_pos (by omega)
  have hrun : t.regs.RunOk := htinv.run htb
  have hpixels : t.regs.pixels = s.regs.pixels := by
    unfold Regs.pixels
    rw [hframe.outWidth, hframe.outHeight]
  have hsum := hrun.stepsLeft_add_k htb
  have hlt := hrun.pixelsDone_lt
  have htk := hrun.k
  have hphase : t.regs.k.toNat = j := by omega
  have hpos : t.regs.y.toNat * t.regs.outWidth.toNat + t.regs.x.toNat = m := by
    show t.regs.pixelsDone = m
    omega
  obtain ⟨hcol, hrow⟩ := rasterIndex_mod_div hrun.x t.regs.y.toNat
  rw [hpos, hframe.outWidth] at hcol hrow
  obtain ⟨hsrc, hdst, _⟩ := hrun.addresses
  refine ⟨t, ht, htb, hphase, hcol.symm, hrow.symm, fun hj4 => ?_, fun _ => hdst.trans hpos⟩
  obtain ⟨hdx, hdy⟩ := phaseBits_toNat (k := t.regs.k) (by omega)
  rw [(hsrc _ _).1, hdx, hdy, hphase, hcol, hrow, hframe.width]

end Sys2Proof.Machine
end

section
/-! PROOFS. The data of a run (42_sequencer.md R108, R109; 20_memory.md R42): every step keeps the partial sums and the
output written so far, the last step completes the output, and the whole run computes the transform. -/

namespace Sys2Proof.Machine

open Sys2Proof

/-! ### Buffers that agree on their own samples -/

/-- Two buffers have the same dimensions and the same samples inside them; what a buffer gives outside its dimensions
does not belong to it (R70). -/
structure PixelBuffer.AgreesInside (b d : PixelBuffer 16) : Prop where
  width : d.width = b.width
  height : d.height = b.height
  sample : ∀ col row c, col < b.width → row < b.height → d.sample col row c = b.sample col row c

section Agreement

variable {b d : PixelBuffer 16} {x y : Nat}

/-- The sums of a block are over samples of the buffer, by induction on the number of samples. -/
theorem PixelBuffer.AgreesInside.partialSum (h : b.AgreesInside d) (hx : x < b.width / 2) (hy : y < b.height / 2)
    (c : Fin 3) {k : Nat} (hk : k ≤ 4) : d.partialSum x y c k = b.partialSum x y c k := by
  induction k with
  | zero => rfl
  | succ k ih =>
    have hsample := h.sample (2 * x + k % 2) (2 * y + k / 2) c (by omega) (by omega)
    rw [PixelBuffer.partialSum, PixelBuffer.partialSum, ih (by omega), hsample]

/-- The sum of a block is the sum of its four samples in the order of R102. -/
theorem PixelBuffer.blockSum_eq_partialSum (b : PixelBuffer 16) (x y : Nat) (c : Fin 3) :
    b.blockSum x y c = b.partialSum x y c 4 := by
  simp [PixelBuffer.blockSum, PixelBuffer.partialSum]

/-- An output sample is computed from samples of the buffer (R73). -/
theorem PixelBuffer.AgreesInside.transform (h : b.AgreesInside d) (hx : x < b.width / 2) (hy : y < b.height / 2)
    (c : Fin 3) : (transform d).sample x y c = (transform b).sample x y c := by
  apply BitVec.eq_of_toNat_eq
  rw [transform_sample_toNat, transform_sample_toNat, PixelBuffer.blockSum_eq_partialSum,
    PixelBuffer.blockSum_eq_partialSum, h.partialSum hx hy c le_rfl]

end Agreement

/-- A location of SRC that holds the same content in the same power-up reads the same. -/
theorem State.srcRead_of_read {s t : State} {a : Index} (hp : t.powerUp = s.powerUp)
    (h : t.src.read a.toNat = s.src.read a.toNat) : t.srcRead a = s.srcRead a := by
  unfold State.srcRead
  rw [h, hp]

/-- A run whose host keeps its duties leaves the source buffer (R166). -/
theorem State.RunFrame.sourceBuffer {s t : State} {l : List HostAction} (h : s.RunFrame t l)
    (hl : ∀ a ∈ l, a.KeepsDuties s) : s.sourceBuffer.AgreesInside t.sourceBuffer := by
  refine ⟨congrArg BitVec.toNat h.width, congrArg BitVec.toNat h.height, fun col row c hcol hrow => ?_⟩
  have hin : row * s.regs.width.toNat + col < s.regs.width.toNat * s.regs.height.toNat :=
    (rasterIndex_lt hrow hcol).trans_eq (Nat.mul_comm _ _)
  have hread : t.srcRead (BitVec.ofNat 32 (row * s.regs.width.toNat + col)) =
      s.srcRead (BitVec.ofNat 32 (row * s.regs.width.toNat + col)) := by
    refine State.srcRead_of_read h.powerUp (h.src _ fun i p hm => ?_)
    have hkeep : s.regs.width.toNat * s.regs.height.toNat ≤ i.toNat := hl _ hm
    have hle : (BitVec.ofNat 32 (row * s.regs.width.toNat + col)).toNat ≤ row * s.regs.width.toNat + col := by
      rw [BitVec.toNat_ofNat]
      exact Nat.mod_le _ _
    omega
  show chan16 (t.srcRead (BitVec.ofNat 32 (row * t.regs.width.toNat + col))) c = _
  rw [h.width, hread]
  rfl

/-! ### The data of a run in the next state -/

/-- An output pixel stays where its location and the source buffer stay. -/
theorem State.HoldsOutput.of_agrees {s t : State} {x y : Nat} (h : s.HoldsOutput x y)
    (how : t.regs.outWidth = s.regs.outWidth)
    (hread : t.dst.read (y * s.regs.outWidth.toNat + x) = s.dst.read (y * s.regs.outWidth.toNat + x))
    (hsrc : s.sourceBuffer.AgreesInside t.sourceBuffer) (hx : x < s.regs.width.toNat / 2)
    (hy : y < s.regs.height.toNat / 2) : t.HoldsOutput x y := by
  obtain ⟨v, hv, hsample⟩ := h
  refine ⟨v, ?_, fun c => ?_⟩
  · rw [how, hread, hv]
  · rw [hsample c]
    exact (hsrc.transform hx hy c).symm

/-- The data is there at the beginning of a run: no sample has been added and no pixel written (R127). -/
theorem State.beginRun_dataOk (s : State) : s.beginRun.DataOk where
  acc c := by
    rw [State.beginRun_regs, Lanes.get_same]
    rfl
  out x y _ _ h := by
    have h0 : y * s.beginRun.regs.outWidth.toNat + x < 0 * s.beginRun.regs.outWidth.toNat + 0 := h
    omega

/-- The turn itself keeps the data. -/
theorem State.CoreHasTurn.dataOk {s u : State} (h : s.CoreHasTurn u) (hdata : s.DataOk) : u.DataOk := by
  rcases h with ⟨_, rfl⟩ | ⟨l, _, rfl⟩
  · exact hdata
  · exact ⟨hdata.acc, hdata.out⟩

/-- The sample that an ACC step adds is the next one of the block (R102, R103). -/
theorem State.chan16_srcRead_srcIndex (s : State) (hk : s.regs.k.toNat ≤ 3) (c : Fin 3) :
    chan16 (s.srcRead (s.regs.srcIndex (s.regs.k.extractLsb' 0 1) (s.regs.k.extractLsb' 1 1))) c =
      s.sourceBuffer.sample (2 * s.regs.x.toNat + s.regs.k.toNat % 2) (2 * s.regs.y.toNat + s.regs.k.toNat / 2) c := by
  obtain ⟨hdx, hdy⟩ := phaseBits_toNat hk
  rw [Regs.srcIndex_eq_ofNat, hdx, hdy]
  rfl

/-- ACC keeps the data: the accumulators hold one sample of the block more (R103). -/
theorem State.accStep_dataOk {s : State} (hrun : s.regs.RunOk) (hdata : s.DataOk) (hk : s.regs.k.toNat ≤ 3) :
    (s.accStep (s.regs.k.extractLsb' 0 1) (s.regs.k.extractLsb' 1 1)).DataOk where
  acc c := by
    rw [State.accStep_acc_toNat_of_run hrun hk, State.accStep_k_toNat_of_le hk, hdata.acc c,
      s.chan16_srcRead_srcIndex hk]
    rfl
  out := hdata.out

/-- EMIT writes the output pixel of its block (R75 to R78, R92). -/
theorem State.emitStep_holdsOutput {s : State} (hrun : s.regs.RunOk) (hdata : s.DataOk) (hk : s.regs.k = 4) :
    s.emitStep.HoldsOutput s.regs.x.toNat s.regs.y.toNat := by
  have hbuf := (State.emitStep_runFrame hrun).sourceBuffer fun a ha => absurd ha List.not_mem_nil
  obtain ⟨_, hdst, _⟩ := hrun.addresses
  refine ⟨emitPixel s.regs.acc, ?_, fun c => ?_⟩
  · rw [s.emitStep_outDims.1, State.emitStep_dst, ← hdst, Memory.read_write_same]
  · have hsum : (s.regs.acc.get c).toNat = s.sourceBuffer.blockSum s.regs.x.toNat s.regs.y.toNat c := by
      rw [hdata.acc c, hk, PixelBuffer.blockSum_eq_partialSum]
      rfl
    rw [hbuf.transform (hrun.outWidth ▸ hrun.x) (hrun.outHeight ▸ hrun.y) c, chan8_emitPixel]
    apply BitVec.eq_of_toNat_eq
    rw [emitLane_toNat, hsum, transform_sample_toNat]
    rfl

/-- After EMIT the output is there up to and with the pixel of its block: that one is written now, and the earlier ones
stand at other locations (R42). -/
theorem State.emitStep_holdsOutput_of_le {s : State} (hrun : s.regs.RunOk) (hdata : s.DataOk) (hk : s.regs.k = 4)
    {x y : Nat} (hx : x < s.regs.outWidth.toNat) (hy : y < s.regs.outHeight.toNat)
    (hle : y * s.regs.outWidth.toNat + x ≤ s.regs.pixelsDone) : s.emitStep.HoldsOutput x y := by
  rcases hle.eq_or_lt with heq | hlt
  · obtain ⟨hcol, hrow⟩ := rasterIndex_mod_div hx y
    obtain ⟨hcol', hrow'⟩ := rasterIndex_mod_div hrun.x s.regs.y.toNat
    rw [heq] at hcol hrow
    rw [← hcol, ← hrow, Regs.pixelsDone, hcol', hrow']
    exact State.emitStep_holdsOutput hrun hdata hk
  · have hbuf := (State.emitStep_runFrame hrun).sourceBuffer fun a ha => absurd ha List.not_mem_nil
    have hother : y * s.regs.outWidth.toNat + x ≠ s.regs.dstIndex.toNat :=
      (hlt.trans_eq hrun.addresses.2.1.symm).ne
    refine (hdata.out x y hx hy hlt).of_agrees s.emitStep_outDims.1 ?_ hbuf (hrun.outWidth ▸ hx) (hrun.outHeight ▸ hy)
    rw [State.emitStep_dst, Memory.read_write_other _ _ hother]

/-- EMIT keeps the data of a run that goes on: the next block has been read by no step yet (R104). -/
theorem State.emitStep_dataOk {s : State} (hrun : s.regs.RunOk) (hdata : s.DataOk) (hb : s.regs.state = .busy)
    (hk : s.regs.k = 4) (hst : s.emitStep.regs.state = .busy) : s.emitStep.DataOk where
  acc c := by
    rw [s.emitStep_cleared.1, s.emitStep_cleared.2, Lanes.get_same]
    rfl
  out x y hx hy hlt := by
    obtain ⟨how, hoh⟩ := s.emitStep_outDims
    have hlt' : y * s.emitStep.regs.outWidth.toNat + x < s.emitStep.regs.pixelsDone := hlt
    rw [how] at hx hlt'
    rw [hoh] at hy
    rcases State.emitStep_pixelsDone hrun hb with ⟨_, hnext⟩ | ⟨hdone, _⟩
    · exact State.emitStep_holdsOutput_of_le hrun hdata hk hx hy (by omega)
    · exact absurd (hst.symm.trans hdone) RunState.noConfusion

/-- The EMIT that ends a run leaves the whole output (R42, R104). -/
theorem State.emitStep_holdsResult {s : State} (hrun : s.regs.RunOk) (hdata : s.DataOk) (hb : s.regs.state = .busy)
    (hk : s.regs.k = 4) (hst : s.emitStep.regs.state = .done) : s.emitStep.HoldsResult := by
  intro x y hx hy
  obtain ⟨how, hoh⟩ := s.emitStep_outDims
  rw [how] at hx
  rw [hoh] at hy
  have hin : y * s.regs.outWidth.toNat + x < s.regs.pixels := (rasterIndex_lt hy hx).trans_eq (Nat.mul_comm _ _)
  rcases State.emitStep_pixelsDone hrun hb with ⟨hbusy, _⟩ | ⟨_, hlast⟩
  · exact absurd (hst.symm.trans hbusy) RunState.noConfusion
  · exact State.emitStep_holdsOutput_of_le hrun hdata hk hx hy (by omega)

/-- A host action that keeps the duties leaves the output buffer (R167). -/
theorem HostAction.KeepsDuties.dstAfter {s : State} {a : HostAction} (h : a.KeepsDuties s) {i : Nat}
    (hi : i < s.regs.pixels) : (a.dstAfter s.dst).read i = s.dst.read i := by
  cases a with
  | writeDst b v =>
    have hle : s.regs.pixels ≤ b.toNat := h
    exact Memory.read_write_other _ _ (by omega)
  | _ => rfl

/-- An action of a host that keeps its duties keeps the data (R166, R167). -/
theorem State.afterHost_dataOk {s : State} (hrun : s.regs.RunOk) (hdata : s.DataOk) {a : HostAction}
    (h : a.KeepsDuties s) (l : List HostAction) (rs : List Reply) : (s.afterHost a l rs).DataOk := by
  have hbuf : s.sourceBuffer.AgreesInside (s.afterHost a l rs).sourceBuffer :=
    (s.afterHost_runFrame a l rs).sourceBuffer fun b hb => List.mem_singleton.1 hb ▸ h
  refine ⟨fun c => ?_, fun x y hx hy hlt => ?_⟩
  · refine (hdata.acc c).trans (hbuf.partialSum ?_ ?_ c hrun.k).symm
    · exact hrun.outWidth ▸ hrun.x
    · exact hrun.outHeight ▸ hrun.y
  · have hin : y * s.regs.outWidth.toNat + x < s.regs.pixels := hlt.trans hrun.pixelsDone_lt
    exact (hdata.out x y hx hy hlt).of_agrees rfl (h.dstAfter hin) hbuf (hrun.outWidth ▸ hx) (hrun.outHeight ▸ hy)

/-- Only START begins a run (R100, R127). -/
theorem step_begins {s t : State} (h : step s = .next t) (hs : s.regs.state ≠ .busy) (ht : t.regs.state = .busy) :
    ∃ l, t = (s.setInputs l).beginRun := by
  rcases step_cases h with ⟨s', hs', hcore⟩ | ⟨w, l, _, hx⟩ | ⟨a, p, l, _, rfl⟩ | ⟨a, l, _, rfl⟩ |
    ⟨a, v, l, _, rfl⟩ | ⟨a, l, _, rfl⟩ | ⟨l, _, rfl⟩
  case inl =>
    have hidle : s'.regs.state ≠ .busy := by
      rcases hs' with ⟨rfl, _⟩ | ⟨l, _, rfl⟩ <;> exact hs
    rcases hcore with ⟨_, rfl⟩ | ⟨hb, _⟩ | ⟨hb, _⟩
    · exact absurd ht hidle
    · exact absurd hb hidle
    · exact absurd hb hidle
  case inr.inl =>
    rcases exec_txn_cases hx with ⟨v, rfl⟩ | ⟨wd, hgt, ch, dp, rfl⟩ | ⟨v, _, rfl⟩ | rfl
    · exact absurd ht hs
    · rw [State.configWrite_idle (s := s.setInputs l) _ hs] at ht
      exact absurd ht hs
    · rcases (s.setInputs l).start_cases with ⟨hb, _⟩ | ⟨_, _, he⟩ | ⟨_, _, _, he⟩ | ⟨_, _, _, he⟩
      · exact absurd hb hs
      · exact absurd (he ▸ ht) RunState.noConfusion
      · exact absurd (he ▸ ht) RunState.noConfusion
      · exact ⟨l, he⟩
    · exact absurd ht hs
  case inr.inr.inr.inr.inr.inr => exact absurd ht RunState.noConfusion
  all_goals exact absurd ht hs

/-- Settles O45, by what a step of a run can do, and START outside one. -/
theorem everyStepKeepsTheDataOfARun : Obligations.EveryStepKeepsTheDataOfARun := by
  intro s t hinv hdata h ht
  by_cases hb : s.regs.state = .busy
  · obtain ⟨hd, hduties⟩ := hdata hb
    have hrun : s.regs.RunOk := hinv.run hb
    rcases step_busy_cases hb hrun.k h with ⟨u, hu, hcore⟩ | ⟨a, l, rs, hi, rfl⟩ | ⟨l, _, rfl⟩
    · rw [← hu.regs] at hb hrun hcore
      rcases hcore with ⟨hk, rfl⟩ | ⟨hk, rfl⟩
      · exact State.accStep_dataOk hrun (hu.dataOk hd) hk
      · exact State.emitStep_dataOk hrun (hu.dataOk hd) hb hk ht
    · exact State.afterHost_dataOk hrun hd (hduties a l hi) l rs
    · exact absurd ht RunState.noConfusion
  · obtain ⟨l, rfl⟩ := step_begins h hb ht
    exact (s.setInputs l).beginRun_dataOk

/-- Only EMIT ends a run in DONE (R104). -/
theorem step_ends {s t : State} (hinv : s.Inv) (hb : s.regs.state = .busy) (h : step s = .next t)
    (ht : t.regs.state = .done) : ∃ u, s.CoreHasTurn u ∧ u.regs.k = 4 ∧ t = u.emitStep := by
  rcases step_busy_cases hb (hinv.run hb).k h with ⟨u, hu, ⟨_, rfl⟩ | ⟨hk, rfl⟩⟩ | ⟨a, l, rs, _, rfl⟩ | ⟨l, _, rfl⟩
  · rw [← hu.regs] at hb
    exact absurd (hb.symm.trans ht) RunState.noConfusion
  · exact ⟨u, hu, hu.regs ▸ hk, rfl⟩
  · exact absurd (hb.symm.trans ht) RunState.noConfusion
  · exact absurd ht RunState.noConfusion

/-- A machine that differs in nothing that a source buffer is read from has the same source buffer. -/
theorem State.sourceBuffer_congr {s t : State} (hw : t.regs.width = s.regs.width) (hh : t.regs.height = s.regs.height)
    (hsrc : t.src = s.src) (hp : t.powerUp = s.powerUp) : t.sourceBuffer = s.sourceBuffer := by
  unfold State.sourceBuffer
  simp only [hw, hh, State.srcRead_congr hsrc hp]

/-- Settles O46: the step is the EMIT that ends the run. -/
theorem lastStepLeavesTheWholeOutput : Obligations.LastStepLeavesTheWholeOutput := by
  intro s t hinv hb hdata _ h ht
  have herr : t.regs.err = .none :=
    ((State.inv_iff t).1 (everyStepKeepsTheInvariant s t hinv h)).1.err_of_ne_error (by simp [ht])
  obtain ⟨u, hu, hk, rfl⟩ := step_ends hinv hb h ht
  have hrun : u.regs.RunOk := hu.regs ▸ hinv.run hb
  have hsrc : u.emitStep.sourceBuffer = u.sourceBuffer :=
    State.sourceBuffer_congr u.emitStep_dims.1 u.emitStep_dims.2 rfl rfl
  have hturn : u.sourceBuffer = s.sourceBuffer := by
    rcases hu with ⟨_, rfl⟩ | ⟨l, _, rfl⟩ <;> rfl
  exact ⟨State.emitStep_holdsResult hrun (hu.dataOk hdata) (hu.regs ▸ hb) hk ht, hsrc.trans hturn, herr⟩

/-! ### The whole run (R109) -/

/-- A step of a run with an action from outside that is no reset: a core turn takes one from the steps left, and any
other action none. -/
theorem step_run {s : State} {a : HostAction} {l : List HostAction} (hinv : s.Inv) (hb : s.regs.state = .busy)
    (hi : s.inputs = a :: l) (ha : a ≠ .reset) :
    ∃ t, step s = .next t ∧ t.inputs = l ∧ t.regs.stepsLeft + [a].count .coreTurn = s.regs.stepsLeft ∧
      s.RunFrame t [a] := by
  by_cases hc : a = .coreTurn
  · subst hc
    obtain ⟨t, hstep, hi', hleft, hframe, _⟩ := step_core_run hinv hb (.inr ⟨l, hi, rfl⟩)
    exact ⟨t, hstep, hi', hleft, hframe.trans ⟨rfl, rfl, rfl, rfl, rfl, fun _ _ => rfl, fun _ _ _ => rfl⟩⟩
  · obtain ⟨rs, hstep⟩ := step_host_busy hb hi hc ha
    refine ⟨_, hstep, rfl, ?_, s.afterHost_runFrame a l rs⟩
    rw [List.count_eq_zero.2 fun hm => hc (List.mem_singleton.1 hm).symm]
    rfl

/-- The duties of the host are the same in every state of a run. -/
theorem State.RunFrame.keepsDuties {s t : State} {l : List HostAction} (h : s.RunFrame t l) {a : HostAction} :
    a.KeepsDuties t ↔ a.KeepsDuties s := by
  unfold HostAction.KeepsDuties
  rw [h.width, h.height, h.outWidth, h.outHeight]

/-- A run in progress to its end, with the last core step last, by induction on the actions before it: the data is kept
while a step is left, and the last step completes the output. -/
theorem run_to_done (l : List HostAction) {s : State} (hinv : s.Inv) (hdata : s.DataOk)
    (hi : s.inputs = l ++ [.coreTurn]) (hl : ∀ a ∈ l, a ≠ .reset ∧ a.KeepsDuties s)
    (hcount : l.count .coreTurn + 1 = s.regs.stepsLeft) :
    ∃ t : State, Host.Core.run Sys2Proof.core (l.length + 1) s = .next t ∧ t.regs.state = .done ∧ t.regs.err = .none ∧
      t.inputs = [] ∧ t.HoldsResult ∧ s.RunFrame t l := by
  have hb : s.regs.state = .busy := Regs.busy_of_stepsLeft_pos (by omega)
  induction l generalizing s with
  | nil =>
    have hturn : s.CoreHasTurn (s.setInputs []) := .inr ⟨[], hi, rfl⟩
    obtain ⟨t, hstep, hi', hleft, hframe, hst⟩ := step_core_run hinv hb hturn
    have hend : t.regs.state ≠ .busy := by
      have htinv := (State.inv_iff t).1 (everyStepKeepsTheInvariant s t hinv hstep)
      exact htinv.1.stepsLeft_eq_zero_iff.1 (by simp at hcount; omega)
    have hdone : t.regs.state = .done := hst.resolve_left hend
    have hduties : s.DutiesKept := by
      intro a k hak
      rw [hi] at hak
      cases hak
      trivial
    obtain ⟨hresult, _, herr⟩ := lastStepLeavesTheWholeOutput s t hinv hb hdata hduties hstep hdone
    exact ⟨t, (run_succ hstep 0).trans (run_zero t), hdone, herr, hi', hresult, hframe⟩
  | cons a l ih =>
    obtain ⟨⟨hreset, hkeep⟩, hrest⟩ := List.forall_mem_cons.1 hl
    obtain ⟨t, hstep, hi', hleft, hframe⟩ := step_run hinv hb hi hreset
    have hcount' : l.count .coreTurn + 1 = t.regs.stepsLeft := by
      have happ : (a :: l).count .coreTurn = [a].count .coreTurn + l.count .coreTurn := List.count_append (l₁ := [a])
      omega
    have htb : t.regs.state = .busy := Regs.busy_of_stepsLeft_pos (by omega)
    have hduties : s.DutiesKept := by
      intro b k hbk
      rw [hi] at hbk
      cases hbk
      exact hkeep
    have htdata : t.DataOk := everyStepKeepsTheDataOfARun s t hinv (fun _ => ⟨hdata, hduties⟩) hstep htb
    obtain ⟨v, hv, hdone, herr, hvi, hresult, hvframe⟩ := ih (everyStepKeepsTheInvariant s t hinv hstep) htdata hi'
      (fun b hbl => (hrest b hbl).imp_right hframe.keepsDuties.2) hcount' htb
    exact ⟨v, (run_succ hstep _).trans hv, hdone, herr, hvi, hresult, hframe.trans hvframe⟩

/-- A START outside a run with the right format begins a run (R127). -/
theorem step_start {s : State} {w : TxnWord} {v : HostWord} {k : List HostAction} (hi : s.inputs = .txn w :: k)
    (hdec : decodeTxn w = .wrCtrlStart v) (hb : s.regs.state ≠ .busy) (hc : s.regs.channels = 3)
    (hd : s.regs.depth = 16) : step s = .next (s.setInputs k).beginRun := by
  rw [step_txn hi, hdec]
  exact congrArg Host.Outcome.next (State.start_accepted (s := s.setInputs k) hb hc hd)

/-- The duties of the host in a run that begins, by the dimensions of the source buffer. -/
theorem State.beginRun_keepsDuties (s : State) {a : HostAction} (h : a.KeepsBuffers
    (s.regs.width.toNat * s.regs.height.toNat) ((s.regs.width.toNat / 2) * (s.regs.height.toNat / 2))) :
    a.KeepsDuties s.beginRun := by
  rw [← s.beginRun_pixels] at h
  exact h

/-- Settles O50: START begins a run whose data is there, the run leaves the whole output of the source buffer of its last
state, and the host's duties make that the source buffer of the START. -/
theorem runComputesTheTransform : Obligations.RunComputesTheTransform := by
  intro s w v l hinv hb hc hd _ _ hi hdec hl hcount
  have hstep := step_start hi hdec hb hc hd
  have huinv := everyStepKeepsTheInvariant _ _ hinv hstep
  have hudata := (s.setInputs (l ++ [.coreTurn])).beginRun_dataOk
  have hpixels := (s.setInputs (l ++ [.coreTurn])).beginRun_pixels
  have huleft := (s.setInputs (l ++ [.coreTurn])).beginRun_stepsLeft
  have hduties (a : HostAction) (ha : a ∈ l) :=
    (hl a ha).imp_right (s.setInputs (l ++ [.coreTurn])).beginRun_keepsDuties
  obtain ⟨t, ht, hdone, herr, hti, hresult, hframe⟩ :=
    run_to_done l huinv hudata rfl hduties (hcount.trans huleft.symm)
  have how : t.regs.outWidth.toNat = s.regs.width.toNat / 2 :=
    (congrArg BitVec.toNat hframe.outWidth).trans (half_toNat s.regs.width)
  have hoh : t.regs.outHeight.toNat = s.regs.height.toNat / 2 :=
    (congrArg BitVec.toNat hframe.outHeight).trans (half_toNat s.regs.height)
  have hbuf : s.sourceBuffer.AgreesInside t.sourceBuffer := hframe.sourceBuffer fun a ha => (hduties a ha).2
  refine ⟨t, (run_succ hstep _).trans ht, hdone, herr, hti, how, hoh, fun x y hx hy => ?_, hframe.src,
    fun a hle => hframe.dst a (hpixels.trans_le hle)⟩
  obtain ⟨o, hread, hsample⟩ := hresult x y (hx.trans_eq how.symm) (hy.trans_eq hoh.symm)
  rw [how] at hread
  exact ⟨o, hread, fun c => (hsample c).trans (hbuf.transform hx hy c)⟩

end Sys2Proof.Machine
end

section
/-! PROOFS. The statements of 43_host_operations.md about the register reads (R120, R122 to R124, R128, R130, R132,
R134, R135): the value that each returns, and that it is a function of the host-visible registers. -/

namespace Sys2Proof.Machine

open Sys2Proof

variable {accw dimw aw : Nat}

/-! ### The words that a read returns, as numbers (R56) -/

/-- The STATUS word as a number: the two codes do not overlap (R22, R123). -/
theorem Regs.statusWord_toNat (r : Regs accw dimw) :
    r.statusWord.toNat = r.err.code.toNat * 16 + r.state.code.toNat := by
  have he := r.err.code.isLt
  have hs := r.state.code.isLt
  unfold Regs.statusWord
  rw [BitVec.toNat_add, BitVec.toNat_mul, BitVec.toNat_setWidth_of_le (by decide),
    BitVec.toNat_setWidth_of_le (by decide), show (16 : HostWord).toNat = 16 from rfl]
  omega

/-- The low two bits of STATUS are STATE (R22). -/
theorem Regs.statusWord_mod_four (r : Regs accw dimw) : r.statusWord.toNat % 4 = r.state.code.toNat := by
  have hs := r.state.code.isLt
  rw [Regs.statusWord_toNat]
  omega

/-- Bits 7 to 4 of STATUS are ERR (R22). -/
theorem Regs.statusWord_div_sixteen (r : Regs accw dimw) : r.statusWord.toNat / 16 % 16 = r.err.code.toNat := by
  have he := r.err.code.isLt
  have hs := r.state.code.isLt
  rw [Regs.statusWord_toNat]
  omega

/-- STATE has the code 1 in BUSY only (R11). -/
theorem RunState.code_toNat_eq_one_iff (st : RunState) : st.code.toNat = 1 ↔ st = .busy := by
  cases st <;> decide

/-- The FORMAT word as a number: the two fields do not overlap (R132). -/
theorem Regs.formatWord_toNat (r : Regs accw dimw) : r.formatWord.toNat = r.depth.toNat * 256 + r.channels.toNat := by
  have hd := r.depth.isLt
  have hc := r.channels.isLt
  unfold Regs.formatWord
  rw [BitVec.toNat_add, BitVec.toNat_mul, BitVec.toNat_setWidth_of_le (by decide),
    BitVec.toNat_setWidth_of_le (by decide), show (256 : HostWord).toNat = 256 from rfl]
  omega

/-- The STATUS words of sound registers: ERR is 0 but in ERROR, where it is 2 or 3 (R12, R123). -/
theorem Regs.ErrOk.statusWord {r : Regs} (h : r.ErrOk) : r.statusWord = 0x00000000 ∨ r.statusWord = 0x00000001 ∨
    r.statusWord = 0x00000002 ∨ r.statusWord = 0x00000023 ∨ r.statusWord = 0x00000033 := by
  obtain ⟨herror, hnone⟩ := (Regs.errOk_iff r).1 h
  unfold Regs.statusWord
  cases hs : r.state with
  | error => rcases herror hs with he | he <;> rw [he] <;> decide
  | idle | busy | done => rw [hnone (by simp [hs])]; decide

/-! ### The reads -/

/-- Settles O15: the word is the two codes, whose numbers are those of R11 and R12. -/
theorem statusReadReturnsErrAndState : Obligations.StatusReadReturnsErrAndState := by
  refine ⟨by decide, fun s => ⟨s.regs.statusWord, ?_, rfl, fun hinv => hinv.err.statusWord⟩⟩
  rw [Regs.statusWord_toNat]
  cases s.regs.err <;> cases s.regs.state <;> rfl

/-- Settles O16. -/
theorem formatReadPlacesDepthAndChannels : Obligations.FormatReadPlacesDepthAndChannels := by
  refine ⟨by decide, fun s => ⟨s.regs.formatWord, s.regs.formatWord_toNat, rfl, fun hreset => ?_⟩⟩
  rw [hreset]
  decide

/-- Settles O18: a read word selects a register or a reserved offset, and each is read from host-visible registers. -/
theorem readsShowOnlyHostVisibleRegisters : Obligations.ReadsShowOnlyHostVisibleRegisters := by
  intro t hwe s u hstate herr hwidth hheight hchannels hdepth how hoh
  rw [decodeTxn_of_read hwe]
  rcases offset_cases (TxnWord.off t) with ⟨reg, hoff⟩ | hoff
  · rw [hoff]
    cases reg with
    | ctrl => exact ⟨0, rfl, rfl⟩
    | status => exact ⟨s.regs.statusWord, rfl, by rw [Regs.statusWord, hstate, herr]; rfl⟩
    | width => exact ⟨dimWord s.regs.width, rfl, by rw [hwidth]; rfl⟩
    | height => exact ⟨dimWord s.regs.height, rfl, by rw [hheight]; rfl⟩
    | format => exact ⟨s.regs.formatWord, rfl, by rw [Regs.formatWord, hchannels, hdepth]; rfl⟩
    | outWidth => exact ⟨dimWord s.regs.outWidth, rfl, by rw [how]; rfl⟩
    | outHeight => exact ⟨dimWord s.regs.outHeight, rfl, by rw [hoh]; rfl⟩
  · rw [decodeRead_reserved hoff]
    exact ⟨0, rfl, rfl⟩

/-- The reserved offsets are those whose number is none of the register map (R54). -/
theorem isReservedOffset_iff (off : Offset) :
    isReservedOffset off = true ↔ off.toNat ∉ [0x00, 0x04, 0x08, 0x0C, 0x10, 0x14, 0x18] := by
  simp [isReservedOffset, ← BitVec.toNat_inj, and_assoc]

/-- Settles O17: every register of the map has an offset that is a multiple of 4. -/
theorem reservedOffsetsReadZeroAndIgnoreWrites : Obligations.ReservedOffsetsReadZeroAndIgnoreWrites := by
  refine ⟨isReservedOffset_iff, fun off hoff => (isReservedOffset_iff off).2 fun hmem => ?_, fun off v hres => ⟨?_, ?_⟩,
    fun _ _ => rfl, fun _ _ _ => rfl⟩
  · simp only [List.mem_cons, List.not_mem_nil, or_false] at hmem
    omega
  · rw [decodeTxn_readWord, decodeRead_reserved hres]
  · rw [decodeTxn_writeWord, decodeWrite_reserved hres]

end Sys2Proof.Machine
end

section
/-! PROOFS. The statements of 43_host_operations.md about the register writes and START (R125 to R127, R129, R131, R133,
R136, R137), and the reads of the dimensions, whose values they decide (R122, R128, R130, R134, R135). -/

namespace Sys2Proof.Machine

open Sys2Proof

variable {accw dimw aw : Nat}

/-! ### Words of writes (R53) -/

/-- A write's word, as the `WE` and `OFF` fields put together with the data, decodes to the write of the data. -/
theorem decodeTxn_head_or {head : TxnWord} {off : Offset}
    (h : head = 0x10000000000#41 ||| (off.setWidth 41 <<< 32)) (v : HostWord) :
    decodeTxn (head ||| v.setWidth 41) = decodeWrite off v :=
  h ▸ decodeTxn_assemble_wrAt off v

/-! ### Configuration writes (R125, R129, R131, R133) -/

section Config

variable {s : State}

/-- While BUSY the three configuration writes change nothing (R125). -/
theorem exec_config_busy (v : HostWord) (hb : s.regs.state = .busy) :
    exec (.wrWidth v) s = .next s ∧ exec (.wrHeight v) s = .next s ∧ exec (.wrFormat v) s = .next s := by
  refine ⟨?_, ?_, ?_⟩
  · rw [exec, execWrWidth, State.configWrite_busy _ hb]
  · rw [exec, execWrHeight, State.configWrite_busy _ hb]
  · rw [exec, execWrFormat, State.configWrite_busy _ hb]

/-- The write of WIDTH outside a run (R129). -/
theorem exec_wrWidth (v : HostWord) (hb : s.regs.state ≠ .busy) :
    exec (.wrWidth v) s = .next (s.setRegs { s.regs with width := dimField v }) := by
  rw [exec, execWrWidth, State.configWrite_idle _ hb]

/-- The write of HEIGHT outside a run (R131). -/
theorem exec_wrHeight (v : HostWord) (hb : s.regs.state ≠ .busy) :
    exec (.wrHeight v) s = .next (s.setRegs { s.regs with height := dimField v }) := by
  rw [exec, execWrHeight, State.configWrite_idle _ hb]

/-- The write of FORMAT outside a run (R133). -/
theorem exec_wrFormat (v : HostWord) (hb : s.regs.state ≠ .busy) :
    exec (.wrFormat v) s =
      .next (s.setRegs { s.regs with channels := channelsField v, depth := depthField v }) := by
  rw [exec, execWrFormat, State.configWrite_idle _ hb]

end Config

/-- Settles O19. -/
theorem dimensionWritesStoreSixteenBits : Obligations.DimensionWritesStoreSixteenBits := by
  refine ⟨fun v => ⟨decodeTxn_head_or (off := 0x08) (by decide) v, decodeTxn_head_or (off := 0x0C) (by decide) v⟩,
    fun v s hb => ⟨⟨dimField v, dimField_toNat v 16, exec_wrWidth v hb⟩,
      ⟨dimField v, dimField_toNat v 16, exec_wrHeight v hb⟩⟩, fun v s hb => ?_⟩
  obtain ⟨hwidth, hheight, _⟩ := exec_config_busy v hb
  exact ⟨hwidth, hheight⟩

/-- EMIT leaves the configuration (R104). -/
theorem State.emitStep_config (s : State accw dimw aw) :
    s.emitStep.regs.width = s.regs.width ∧ s.emitStep.regs.height = s.regs.height ∧
      s.emitStep.regs.channels = s.regs.channels ∧ s.emitStep.regs.depth = s.regs.depth := by
  rw [State.emitStep_regs, Regs.advance_eq]
  exact ⟨rfl, rfl, rfl, rfl⟩

/-- Settles O21, by what a step can do: a host transaction leaves the registers of a run, and the core's two steps and
the pixel accesses write no configuration register in any state. -/
theorem configurationIsConstantDuringARun : Obligations.ConfigurationIsConstantDuringARun := by
  refine ⟨fun v s hb => exec_config_busy v hb, fun s t hb hreset h => ?_⟩
  rcases step_cases h with ⟨s', hs', hcore⟩ | ⟨w, l, _, hx⟩ | ⟨a, p, l, _, rfl⟩ | ⟨a, l, _, rfl⟩ |
    ⟨a, v, l, _, rfl⟩ | ⟨a, l, _, rfl⟩ | ⟨l, hi, _⟩
  case inl =>
    have hregs : s'.regs = s.regs := by
      rcases hs' with ⟨rfl, _⟩ | ⟨l, _, rfl⟩ <;> rfl
    rw [← hregs]
    rcases hcore with ⟨_, rfl⟩ | ⟨_, _, rfl⟩ | ⟨_, _, rfl⟩
    · exact ⟨rfl, rfl, rfl, rfl⟩
    · exact ⟨rfl, rfl, rfl, rfl⟩
    · exact s'.emitStep_config
  case inr.inl =>
    obtain ⟨rs, hbusy, _⟩ := exec_txn_busy w (s := s.setInputs l) hb
    rw [Host.Outcome.next.inj (hx.symm.trans hbusy)]
    exact ⟨rfl, rfl, rfl, rfl⟩
  case inr.inr.inr.inr.inr.inr => exact absurd hi (hreset l)
  all_goals exact ⟨rfl, rfl, rfl, rfl⟩

/-! ### START (R127, R137) -/

/-- START while BUSY does nothing (R137). -/
theorem State.start_busy {s : State accw dimw aw} (hb : s.regs.state = .busy) : s.start = s := if_pos hb

/-- START outside a run with a format that it refuses: the channel count is checked first (R142, R143, R146). -/
theorem State.start_refused {s : State accw dimw aw} (hb : s.regs.state ≠ .busy)
    (hf : ¬ (s.regs.channels = 3 ∧ s.regs.depth = 16)) :
    s.start = s.raise (if s.regs.channels = 3 then .unsupportedBitDepth else .channelCountMismatch) := by
  rcases s.start_cases with ⟨hb', _⟩ | ⟨_, hc, h⟩ | ⟨_, hc, _, h⟩ | ⟨_, hc, hd, _⟩
  · exact absurd hb' hb
  · rw [h, if_neg hc]
  · rw [h, if_pos hc]
  · exact absurd ⟨hc, hd⟩ hf

/-- Settles O23. -/
theorem startWhileBusyIsIgnored : Obligations.StartWhileBusyIsIgnored :=
  fun _ _ _ hb => congrArg Host.Outcome.next (State.start_busy hb)

/-- Settles O25: each clause is one of the branches of START, with every register written out. -/
theorem startRunsChecksThenBegins : Obligations.StartRunsChecksThenBegins := by
  refine ⟨by decide, fun v s _ hb => ⟨fun hc => ?channels, fun hc hd => ?depth, fun hc hd => ?begin⟩⟩
  case channels =>
    rw [exec, execWrCtrlStart, State.start_refused hb fun h => hc h.1, if_neg hc]
    rfl
  case depth =>
    rw [exec, execWrCtrlStart, State.start_refused hb fun h => hd h.2, if_pos hc]
    rfl
  case begin =>
    refine ⟨_, _, half_toNat s.regs.width, half_toNat s.regs.height, ?_⟩
    rw [exec, execWrCtrlStart, State.start_accepted hb hc hd]
    rfl

/-- Settles O20: START refuses the two fields that the write stores, unless they are 3 and 16. -/
theorem formatWriteStoresItsTwoFields : Obligations.FormatWriteStoresItsTwoFields := by
  refine ⟨decodeTxn_head_or (off := 0x10) (by decide),
    fun v s hb => ⟨_, _, channelsField_toNat v, depthField_toNat v, exec_wrFormat v hb⟩,
    fun v s hb => ?busy, fun v s hb hv => ?refused⟩
  case busy =>
    obtain ⟨_, _, hformat⟩ := exec_config_busy v hb
    exact hformat
  have hf : ¬ (channelsField v = 3 ∧ depthField v = 16) := by
    rintro ⟨hc, hd⟩
    have hc' := channelsField_toNat v
    have hd' := depthField_toNat v
    rw [hc] at hc'
    rw [hd] at hd'
    exact hv.elim (absurd hc'.symm) (absurd hd'.symm)
  refine ⟨_, _, exec_wrFormat v hb, rfl, rfl, rfl, ?_⟩
  rw [State.start_refused]
  · rfl
  · exact hb
  · exact hf

/-- Settles O22: the words are writes of CTRL and of read-only registers, whose operations leave the state. -/
theorem ctrlNopAndReadOnlyWritesDoNothing : Obligations.CtrlNopAndReadOnlyWritesDoNothing := by
  refine ⟨by decide, fun v => ⟨decodeTxn_head_or (off := 0x04) (by decide) v,
    decodeTxn_head_or (off := 0x14) (by decide) v, decodeTxn_head_or (off := 0x18) (by decide) v⟩,
    fun v s => ⟨fun hv => ⟨?_, rfl⟩, rfl, rfl, rfl⟩⟩
  exact (decodeTxn_head_or (off := 0x00) (by decide) v).trans (decodeWrite_ctrl_nop hv)

/-! ### The reads of the dimensions (R122, R128, R130, R134, R135) -/

/-- Every operation other than a START outside a run leaves the output dimensions (R17, R18). -/
theorem exec_outDims {i : Instr} {s t : State} (h : exec i s = .next t)
    (hi : (∀ v, i ≠ .wrCtrlStart v) ∨ s.regs.state = .busy) :
    t.regs.outWidth = s.regs.outWidth ∧ t.regs.outHeight = s.regs.outHeight := by
  rcases exec_cases h with ⟨v, rfl⟩ | ⟨wd, ht, ch, dp, rfl⟩ | ⟨v, hv, rfl⟩ | rfl | ⟨dx, dy, _, rfl⟩ | ⟨_, rfl⟩
  · exact ⟨rfl, rfl⟩
  · rcases s.configWrite_cases { s.regs with width := wd, height := ht, channels := ch, depth := dp } with
      ⟨_, he⟩ | ⟨_, he⟩ <;> rw [he] <;> exact ⟨rfl, rfl⟩
  · rw [State.start_busy (hi.resolve_left fun hne => hne v hv)]
    exact ⟨rfl, rfl⟩
  · exact ⟨rfl, rfl⟩
  · exact ⟨rfl, rfl⟩
  · exact s.emitStep_outDims

/-- The output dimensions after a START outside a run: 0 in ERROR, and the halves elsewhere (R17, R18, R127, R144). -/
theorem State.start_outDims {s : State} (hb : s.regs.state ≠ .busy) :
    (s.start.regs.state = .error → s.start.regs.outWidth = 0 ∧ s.start.regs.outHeight = 0) ∧
    (s.start.regs.state ≠ .error → s.start.regs.outWidth.toNat = s.regs.width.toNat / 2 ∧
      s.start.regs.outHeight.toNat = s.regs.height.toNat / 2) := by
  by_cases hf : s.regs.channels = 3 ∧ s.regs.depth = 16
  · rw [State.start_accepted hb hf.1 hf.2]
    refine ⟨fun herror => ?_, fun _ => ⟨half_toNat s.regs.width, half_toNat s.regs.height⟩⟩
    rcases s.beginRun_state_cases with ⟨_, hst⟩ | ⟨_, hst⟩ <;> exact absurd (hst.symm.trans herror) RunState.noConfusion
  · rw [State.start_refused hb hf]
    exact ⟨fun _ => ⟨rfl, rfl⟩, fun hne => absurd rfl hne⟩

/-- Settles O14, a clause at a time. -/
theorem ctrlAndDimensionReadsReturnTheirValue : Obligations.CtrlAndDimensionReadsReturnTheirValue := by
  refine ⟨by decide, fun _ => rfl, fun s => ⟨s.regs.statusWord, rfl, ?busy⟩,
    fun s => ⟨_, dimWord_toNat (by decide) s.regs.width, rfl⟩,
    fun s => ⟨_, dimWord_toNat (by decide) s.regs.height, rfl⟩,
    fun s => ⟨_, dimWord_toNat (by decide) s.regs.outWidth, rfl⟩,
    fun s => ⟨_, dimWord_toNat (by decide) s.regs.outHeight, rfl⟩,
    fun s hb => ⟨_, exec_wrWidth 0x12345 hb, ?width⟩, ⟨rfl, rfl, rfl, rfl⟩,
    fun v s hb => ⟨s.start, rfl, State.start_outDims hb⟩, fun i s t => exec_outDims⟩
  case busy => rw [Regs.statusWord_mod_four, RunState.code_toNat_eq_one_iff]
  case width =>
    have hword : dimWord (dimField 0x12345) = 0x00002345 := by decide
    rw [exec, execRdWidth, State.setRegs_regs, hword]
    rfl

end Sys2Proof.Machine
end

section
/-! PROOFS. The statements of 43_host_operations.md about the host's call (R138), first part: the actions that hand over
the buffer and begin the run, and the state they lead to. -/

namespace Sys2Proof.Machine

open Sys2Proof

/-! ### Pixels in row-major order (R31) -/

/-- SRC after the Provider has written `pixels` from index `a` on. -/
def Memory.provided {n : Nat} (m : Memory n) : Nat → List (BitVec n) → Memory n
  | _, [] => m
  | a, p :: l => Memory.provided (Memory.write m a p) (a + 1) l

section Provided

variable {n a i : Nat} {l : List (BitVec n)}

/-- The locations before and behind the pixels keep their content. -/
theorem Memory.read_provided_other (m : Memory n) (h : i < a ∨ a + l.length ≤ i) :
    (Memory.provided m a l).read i = Memory.read m i := by
  induction l generalizing m a with
  | nil => rfl
  | cons p l ih =>
    rw [List.length_cons] at h
    rw [Memory.provided, ih _ (by omega), Memory.read_write_other _ _ (by omega)]

/-- Pixel number `i` stands at index `a + i`. -/
theorem Memory.read_provided (m : Memory n) {p : BitVec n} (h : l[i]? = some p) :
    (Memory.provided m a l).read (a + i) = some p := by
  induction l generalizing m a i with
  | nil => exact absurd h (by simp)
  | cons q l ih =>
    cases i with
    | zero =>
      rw [List.getElem?_cons_zero] at h
      rw [Memory.provided, Memory.read_provided_other _ (.inl (by omega)), Nat.add_zero, Memory.read_write_same, h]
    | succ i =>
      rw [List.getElem?_cons_succ] at h
      rw [Memory.provided, ← ih (Memory.write m a q) (a := a + 1) h, Nat.add_assoc, Nat.add_comm 1 i]

/-- Pixels inside the index space keep the canonical form. -/
theorem Memory.wf_provided {m : Memory n} (h : m.wf) (hl : a + l.length ≤ 2 ^ 32) : (Memory.provided m a l).wf := by
  induction l generalizing m a with
  | nil => exact h
  | cons p l ih =>
    rw [List.length_cons] at hl
    exact ih (Memory.wf_write p (by omega) h) (by omega)

end Provided

/-! ### Actions that lead to a state outside a run -/

/-- The actions `l` lead from `s` to `t` one step each, whatever is to come after them, and no run is in progress before
the last of them is done. -/
inductive State.Leads : State → List HostAction → State → Prop
  | nil (s : State) : s.Leads [] s
  | cons {s u t : State} {a : HostAction} {l : List HostAction} (hb : s.regs.state ≠ .busy)
      (h : ∀ k, step (s.setInputs (a :: k)) = .next (u.setInputs k)) (hl : u.Leads l t) : s.Leads (a :: l) t

/-- One list of actions after another. -/
theorem State.Leads.append {s u t : State} {k l : List HostAction} (h : s.Leads k u) (hl : u.Leads l t) :
    s.Leads (k ++ l) t := by
  induction h with
  | nil => exact hl
  | cons hb hstep _ ih => exact .cons hb hstep (ih hl)

/-- The machine that is given the actions performs them. -/
theorem State.Leads.run {s t : State} {l : List HostAction} (h : s.Leads l t) :
    Host.Core.run Sys2Proof.core l.length (s.setInputs l) = .next (t.setInputs []) := by
  induction h with
  | nil s => exact run_zero _
  | cons _ hstep _ ih => exact (run_succ (hstep _) _).trans ih

/-- The Provider's writes lead to SRC with the pixels (R138). -/
theorem State.leads_provide {s : State} (hb : s.regs.state ≠ .busy) {a : Nat} {pixels : List SrcPixel}
    (hlen : a + pixels.length ≤ 2 ^ 32) : s.Leads (provide a pixels) (s.setSrc (s.src.provided a pixels)) := by
  induction pixels generalizing s a with
  | nil => exact .nil s
  | cons p l ih =>
    rw [List.length_cons] at hlen
    have hindex : (BitVec.ofNat 32 a).toNat = a := by
      rw [BitVec.toNat_ofNat, Nat.mod_eq_of_lt (by omega)]
    refine .cons (u := s.srcWrite (BitVec.ofNat 32 a) p) hb
      (fun k => step_writeSrc (State.setInputs_inputs s _)) ?_
    have hrest := ih (s := s.srcWrite (BitVec.ofNat 32 a) p) hb (a := a + 1) (by omega)
    rw [State.srcWrite_src, hindex] at hrest
    exact hrest

/-- A line that writes leads to what the operation of its offset and value does (R61). -/
theorem State.leads_wr {s u : State} (hb : s.regs.state ≠ .busy) {reg : RegName} {v : HostWord}
    (h : ∀ k, exec (decodeWrite reg.offset v) (s.setInputs k) = .next (u.setInputs k)) :
    s.Leads [.txn (Line.wr reg v).assemble] u := by
  refine .cons hb (fun k => ?_) (.nil u)
  rw [step_txn (State.setInputs_inputs _ _), ← h k]
  exact congrArg (exec · (s.setInputs k)) (decodeTxn_assemble_wrAt reg.offset v)

/-- `wr WIDTH` outside a run leads to its value (R129). -/
theorem State.leads_wrWidth {s : State} (hb : s.regs.state ≠ .busy) (v : HostWord) :
    s.Leads [.txn (Line.wr .width v).assemble] (s.setRegs { s.regs with width := dimField v }) :=
  State.leads_wr hb fun k => exec_wrWidth (s := s.setInputs k) v hb

/-- `wr HEIGHT` outside a run leads to its value (R131). -/
theorem State.leads_wrHeight {s : State} (hb : s.regs.state ≠ .busy) (v : HostWord) :
    s.Leads [.txn (Line.wr .height v).assemble] (s.setRegs { s.regs with height := dimField v }) :=
  State.leads_wr hb fun k => exec_wrHeight (s := s.setInputs k) v hb

/-- `setdim` outside a run leads to the two dimensions (R62). -/
theorem State.leads_setdim {s : State} (hb : s.regs.state ≠ .busy) (w h : HostWord) :
    s.Leads (Pseudo.setdim w h).actions
      (s.setRegs { s.regs with width := dimField w, height := dimField h }) :=
  (State.leads_wrWidth hb w).append
    (State.leads_wrHeight (s := s.setRegs { s.regs with width := dimField w }) hb h)

/-- `setfmt 3, 16` outside a run leads to the format that START accepts (R62, R133). -/
theorem State.leads_setfmt {s : State} (hb : s.regs.state ≠ .busy) :
    s.Leads (Pseudo.setfmt 3 16).actions (s.setRegs { s.regs with channels := 3, depth := 16 }) :=
  State.leads_wr hb fun k => exec_wrFormat (s := s.setInputs k) _ hb

/-- START does not depend on what the outside does later. -/
theorem State.start_setInputs (s : State) (k : List HostAction) : (s.setInputs k).start = s.start.setInputs k := by
  by_cases hb : s.regs.state = .busy
  · rw [State.start_busy hb, State.start_busy (s := s.setInputs k) hb]
  · by_cases hf : s.regs.channels = 3 ∧ s.regs.depth = 16
    · rw [State.start_accepted hb hf.1 hf.2, State.start_accepted (s := s.setInputs k) hb hf.1 hf.2]
      rfl
    · rw [State.start_refused hb hf, State.start_refused (s := s.setInputs k) hb hf]
      rfl

/-- `start` leads to what START does (R62, R127). -/
theorem State.leads_start {s : State} (hb : s.regs.state ≠ .busy) : s.Leads Pseudo.start.actions s.start :=
  State.leads_wr hb fun k => congrArg Host.Outcome.next (s.start_setInputs k)

/-! ### The first part of the call (R138) -/

/-- The registers before the START of a call: the dimensions, and with `setFormat` the format. -/
def Regs.configured (r : Regs) (w h : HostWord) (setFormat : Bool) : Regs :=
  { r with
    width := dimField w, height := dimField h
    channels := if setFormat then 3 else r.channels, depth := if setFormat then 16 else r.depth }

/-- The state before the START of a call: the buffer is handed over, and the configuration is set. -/
def State.handedOver (s : State) (pixels : List SrcPixel) (w h : HostWord) (setFormat : Bool) : State :=
  (s.setSrc (s.src.provided 0 pixels)).setRegs (s.regs.configured w h setFormat)

section HandOver

variable {s : State} {pixels : List SrcPixel} {w h : HostWord} {setFormat : Bool}

/-- The Provider has one action for each pixel. -/
theorem provide_length (a : Nat) (pixels : List SrcPixel) : (provide a pixels).length = pixels.length := by
  induction pixels generalizing a with
  | nil => rfl
  | cons p l ih => rw [provide, List.length_cons, List.length_cons, ih]

/-- How many actions the first part of a call has: the pixels, two or three writes, and START. -/
theorem callActions_length (pixels : List SrcPixel) (w h : HostWord) (setFormat : Bool) :
    (callActions pixels w h setFormat).length = pixels.length + if setFormat then 4 else 3 := by
  cases setFormat <;> rw [callActions, List.length_append, provide_length] <;> rfl

/-- The first part of a call leads to what START does when the buffer is handed over. -/
theorem State.leads_callActions (hb : s.regs.state ≠ .busy) (hlen : pixels.length ≤ 2 ^ 32) :
    s.Leads (callActions pixels w h setFormat) (s.handedOver pixels w h setFormat).start := by
  have hpixels := State.leads_provide hb (a := 0) (by omega : 0 + pixels.length ≤ 2 ^ 32)
  have hdims := State.leads_setdim (s := s.setSrc (s.src.provided 0 pixels)) hb w h
  have hstart := State.leads_start (s := s.handedOver pixels w h setFormat) hb
  refine hpixels.append (hdims.append ?_)
  cases setFormat with
  | true =>
    have hformat := State.leads_setfmt (s := (s.setSrc (s.src.provided 0 pixels)).setRegs
      { s.regs with width := dimField w, height := dimField h }) hb
    exact hformat.append hstart
  | false => exact hstart

/-- Fewer than 2^32 pixels fill a buffer of two 16-bit dimensions (R30). -/
theorem pixels_length_le (hw : w.toNat < 65536) (hh : h.toNat < 65536) (hlen : pixels.length = w.toNat * h.toNat) :
    pixels.length ≤ 2 ^ 32 :=
  calc pixels.length = w.toNat * h.toNat := hlen
    _ ≤ 65536 * 65536 := Nat.mul_le_mul hw.le hh.le
    _ = 2 ^ 32 := by decide

/-- A 16-bit dimension is set as it is (R129, R131). -/
theorem dimField_toNat_of_lt (hw : w.toNat < 65536) : (dimField w).toNat = w.toNat :=
  (dimField_toNat w 16).trans (Nat.mod_eq_of_lt hw)

/-- The format before START, when it was right or is written (R138). -/
theorem State.handedOver_format (hf : setFormat = false → s.regs.channels = 3 ∧ s.regs.depth = 16) :
    (s.handedOver pixels w h setFormat).regs.channels = 3 ∧ (s.handedOver pixels w h setFormat).regs.depth = 16 := by
  cases setFormat with
  | true => exact ⟨rfl, rfl⟩
  | false => exact hf rfl

end HandOver

/-- Settles O51: the actions lead to the beginning of a run, whose registers are those of START. -/
theorem hostCallSetsUpTheRun : Obligations.HostCallSetsUpTheRun := by
  intro s pixels w h setFormat hb hw2 hw hh2 hh hf hlen hi
  obtain ⟨hc, hd⟩ := State.handedOver_format (pixels := pixels) (w := w) (h := h) hf
  have hwidth : (s.handedOver pixels w h setFormat).regs.width.toNat = w.toNat := dimField_toNat_of_lt hw
  have hheight : (s.handedOver pixels w h setFormat).regs.height.toNat = h.toNat := dimField_toNat_of_lt hh
  have hrun := (State.leads_callActions (w := w) (h := h) (setFormat := setFormat) hb (pixels_length_le hw hh hlen)).run
  rw [State.start_accepted (s := s.handedOver pixels w h setFormat) hb hc hd, callActions_length, ← hi] at hrun
  have hbusy : (s.handedOver pixels w h setFormat).beginRun.regs.state = .busy := by
    rcases (s.handedOver pixels w h setFormat).beginRun_state_cases with ⟨_, hst⟩ | ⟨hsmall, _⟩
    · exact hst
    · omega
  refine ⟨_, hrun, rfl, rfl, rfl, hbusy, rfl, hwidth, hheight, hc, hd, (half_toNat _).trans (by rw [hwidth]),
    (half_toNat _).trans (by rw [hheight]), rfl, rfl, rfl, rfl, fun a p hp => ?_⟩
  have hread := Memory.read_provided s.src (a := 0) hp
  rw [Nat.zero_add] at hread
  exact hread

end Sys2Proof.Machine
end

section
/-! PROOFS. The statements of 43_host_operations.md about the host's call (R138), second part: the turns of the host,
the wait, and the return value. -/

namespace Sys2Proof.Machine

open Sys2Proof

/-! ### The turns of a host whose core has nothing to do -/

/-- Outside a run the core's turn changes nothing (R100). -/
theorem State.act_coreTurn_rest {s : State} (hb : s.regs.state ≠ .busy) : s.act .coreTurn = some (s.setInputs []) :=
  State.act_eq_some.2 (step_of_coreHasTurn_rest (s := s.setInputs [.coreTurn]) (.inr ⟨[], rfl, rfl⟩) hb)

/-- In `n` turns of the host the call goes from `c` at `s` to `d` at `t`, and before each of them a turn of the core
changes nothing. -/
inductive Call.Comes : Call → State → Nat → Call → State → Prop
  | refl (c : Call) (s : State) : c.Comes s 0 c s
  | turn {c d e : Call} {s u t : State} {n : Nat} (hcore : s.act .coreTurn = some s)
      (hhost : c.turn s .host = some (d, u)) (h : d.Comes u n e t) : c.Comes s (n + 1) e t

section Comes

variable {c d e : Call} {s u t : State} {m n : Nat} {l : List Agent}

/-- One part of a call after another. -/
theorem Call.Comes.trans (h : c.Comes s m d u) (h' : d.Comes u n e t) : c.Comes s (m + n) e t := by
  induction h with
  | refl => rwa [Nat.zero_add]
  | turn hcore hhost _ ih =>
    rw [Nat.add_right_comm]
    exact .turn hcore hhost (ih h')

/-- A schedule of the host's turns alone. -/
theorem Call.Comes.turns_replicate (h : c.Comes s n d t) : c.turns s (List.replicate n .host) = some (d, t) := by
  induction h with
  | refl => rfl
  | turn _ hhost _ ih => exact (Call.turns_cons hhost _).trans ih

/-- Turns of a core that has nothing to do. -/
theorem Call.turns_core (hcore : s.act .coreTurn = some s) (c : Call) (m : Nat) :
    c.turns s (List.replicate m .core) = some (c, s) := by
  induction m with
  | zero => rfl
  | succ m ih => exact (Call.turns_cons (by rw [Call.turn, hcore]; rfl) _).trans ih

/-- The core's turns up to the first of the host's, in a schedule without a reset. -/
theorem exists_first_host_turn (hreset : .reset ∉ l) (hn : 0 < l.count .host) :
    ∃ m k, l = List.replicate m .core ++ .host :: k := by
  induction l with
  | nil => exact absurd hn (by simp)
  | cons a l ih =>
    cases a with
    | host => exact ⟨0, l, rfl⟩
    | reset => exact absurd List.mem_cons_self hreset
    | core =>
      obtain ⟨m, k, rfl⟩ := ih (fun hm => hreset (List.mem_cons_of_mem _ hm))
        (by rwa [List.count_cons_of_ne (by decide)] at hn)
      exact ⟨m + 1, k, rfl⟩

/-- A schedule without a reset that has the host's turns begins with a part in which the call comes that far. -/
theorem Call.Comes.exists_split (h : c.Comes s n d t) (hreset : .reset ∉ l) (hn : n ≤ l.count .host) :
    ∃ p k, l = p ++ k ∧ c.turns s p = some (d, t) := by
  induction h generalizing l with
  | refl => exact ⟨[], l, rfl, rfl⟩
  | turn hcore hhost _ ih =>
    obtain ⟨m, k, rfl⟩ := exists_first_host_turn hreset (by omega)
    have hm : (List.replicate m Agent.core).count .host = 0 := by simp [List.count_replicate]
    rw [List.count_append, hm, List.count_cons_self] at hn
    obtain ⟨p, q, rfl, hturns⟩ := ih (l := k) (fun hk => hreset (by simp [hk])) (by omega)
    refine ⟨List.replicate m .core ++ .host :: p, q, by simp, ?_⟩
    rw [Call.turns_append (Call.turns_core hcore _ m), Call.turns_cons hhost, hturns]

/-- A call that has ended does nothing more. -/
theorem Call.turn_host_ended (h : c.action = none) (s : State) : c.turn s .host = some (c, s) := by
  rw [Call.turn, h]

/-- Further turns do no harm to a call that has ended. -/
theorem Call.turns_ended (h : c.action = none) (hcore : s.act .coreTurn = some s) (hreset : .reset ∉ l) :
    c.turns s l = some (c, s) := by
  induction l with
  | nil => rfl
  | cons a l ih =>
    have hl : .reset ∉ l := fun hm => hreset (List.mem_cons_of_mem _ hm)
    cases a with
    | host => exact (Call.turns_cons (Call.turn_host_ended h s) l).trans (ih hl)
    | core => exact (Call.turns_append (Call.turns_core hcore c 1) l).trans (ih hl)
    | reset => exact absurd List.mem_cons_self hreset

/-- A schedule without a reset that has the host's turns up to the end of the call. -/
theorem Call.Comes.turns_to_end (h : c.Comes s n d t) (hd : d.action = none) (hcore : t.act .coreTurn = some t)
    (hreset : .reset ∉ l) (hn : n ≤ l.count .host) : c.turns s l = some (d, t) := by
  obtain ⟨p, k, rfl, hturns⟩ := h.exists_split hreset hn
  rw [Call.turns_append hturns, Call.turns_ended hd hcore fun hk => hreset (List.mem_append_right _ hk)]

/-- What is to come from outside gives way to the call's actions. -/
theorem Call.turns_setInputs {a : HostAction} (ha : c.action = some a) (k : List HostAction) (hl : l ≠ []) :
    c.turns (s.setInputs k) l = c.turns s l := by
  cases l with
  | nil => exact absurd rfl hl
  | cons b l =>
    have hturn : c.turn (s.setInputs k) b = c.turn s b := by
      cases b with
      | host => rw [Call.turn, Call.turn, ha]; rfl
      | core | reset => rfl
    rw [Call.turns, Call.turns, hturn]

end Comes

/-- Actions that lead to a state are given in as many turns of the host. -/
theorem State.Leads.comes {s t : State} {l : List HostAction} (h : s.Leads l t) :
    (Call.give l).Comes (s.setInputs []) l.length .waiting (t.setInputs []) := by
  induction h with
  | nil s => exact .refl _ _
  | cons hb hstep _ ih =>
    exact .turn (State.act_coreTurn_rest hb) (Call.turn_host rfl (State.act_eq_some.2 (hstep []))) ih

/-! ### The wait (R138) -/

/-- The low two bits of a word as a number. -/
theorem extractLsb_zero_two_eq_iff (v : HostWord) (k : BitVec 2) : v.extractLsb' 0 2 = k ↔ v.toNat % 4 = k.toNat := by
  rw [← BitVec.toNat_inj, field_toNat, pow_zero, Nat.div_one]
  rfl

/-- What a host does after a poll, by the low two bits of the word (R138). -/
theorem Call.afterPoll_eq (v : HostWord) : Call.afterPoll v =
    if v.toNat % 4 = 1 then .waiting
    else if v.toNat % 4 = 3 then .failure (failureCode v)
    else if v.toNat % 4 = 2 then .askingWidth
    else .noReturn := by
  have hpoll : (!pollOver v) = true ↔ v.toNat % 4 = 1 := by
    rw [Bool.not_eq_true', ← Bool.not_eq_true, pollOver_iff, not_not]
  unfold Call.afterPoll
  simp only [hpoll, extractLsb_zero_two_eq_iff]
  rfl

/-- The failure code in a STATUS word is ERR. -/
theorem failureCode_statusWord (r : Regs) : failureCode r.statusWord = r.err.code := by
  apply BitVec.eq_of_toNat_eq
  rw [failureCode_toNat, Regs.statusWord_div_sixteen]

/-- Where the call stands after a poll, by STATE. -/
def Regs.polled (r : Regs) : Call :=
  match r.state with
  | .idle => .noReturn
  | .busy => .waiting
  | .done => .askingWidth
  | .error => .failure r.err.code

/-- What a host does after a poll of the core. -/
theorem Call.afterPoll_statusWord (r : Regs) : Call.afterPoll r.statusWord = r.polled := by
  rw [Call.afterPoll_eq, Regs.statusWord_mod_four, failureCode_statusWord, Regs.polled]
  cases r.state <;> rfl

/-- The state when the host has been given the replies `rs`. -/
def State.answered (s : State) (rs : List Reply) : State := { s with inputs := [], replies := rs }

/-- A line that reads, as the host's action, does what the operation of its offset does (R61). -/
theorem State.act_rd {s t : State} {reg : RegName} (h : exec (decodeRead reg.offset) (s.setInputs []) = .next t) :
    s.act (.txn (Line.rd reg).assemble) = some t := by
  rw [State.act_txn, ← h]
  exact congrArg (exec · (s.setInputs [])) (decodeTxn_assemble_rdAt reg.offset)

/-- A poll (R138): it changes nothing but the replies. -/
theorem Call.turn_waiting (s : State) : Call.waiting.turn s .host =
    some (s.regs.polled, s.answered (.rdata s.regs.statusWord :: s.replies)) := by
  rw [← Call.afterPoll_statusWord]
  exact Call.turn_host rfl (State.act_rd (reg := .status) (s := s) rfl)

/-! ### The return value (R138) -/

/-- What DST holds at the indices `a` to `a + m - 1`. -/
def State.dstPixels (s : State) (a m : Nat) : List DstPixel :=
  (List.range' a m).map fun i => s.dstRead (BitVec.ofNat 32 i)

/-- Pixel number `i` of them. -/
theorem State.dstPixels_getElem? (s : State) {i m : Nat} (h : i < m) :
    (s.dstPixels 0 m)[i]? = some (s.dstRead (BitVec.ofNat 32 i)) := by
  simp [State.dstPixels, List.getElem?_range' h]

section Return

variable {s : State}

/-- A host that has been answered has a core with nothing to do, outside a run. -/
theorem State.answered_act_coreTurn (hb : s.regs.state ≠ .busy) (rs : List Reply) :
    (s.answered rs).act .coreTurn = some (s.answered rs) :=
  State.act_coreTurn_rest (s := s.answered rs) hb

/-- The Sink's reads take the pixels in order, by induction on their number (R32, R138). -/
theorem Call.comes_taking (hb : s.regs.state ≠ .busy) (ow oh : HostWord) (a m : Nat) (got : List DstPixel)
    (rs : List Reply) : ∃ rs', (Call.collect ow oh got (take a m)).Comes (s.answered rs) m
      (.output ow oh (got ++ s.dstPixels a m)) (s.answered rs') := by
  induction m generalizing a got rs with
  | zero =>
    rw [State.dstPixels, List.range'_zero, List.map_nil, List.append_nil]
    exact ⟨rs, .refl _ _⟩
  | succ m ih =>
    obtain ⟨rs', h⟩ := ih (a + 1) (got ++ [s.dstRead (BitVec.ofNat 32 a)])
      (.dstPixel (s.dstRead (BitVec.ofNat 32 a)) :: rs)
    rw [List.append_assoc] at h
    exact ⟨rs', .turn (State.answered_act_coreTurn hb rs) (Call.turn_host rfl (State.act_readDst _ _)) h⟩

/-- From DONE the call returns the output dimensions and what DST holds, in three turns and one more for each pixel
(R138). -/
theorem Call.comes_output (hst : s.regs.state = .done) (rs : List Reply) :
    ∃ rs', Call.waiting.Comes (s.answered rs) (s.regs.pixels + 3)
      (.output (dimWord s.regs.outWidth) (dimWord s.regs.outHeight) (s.dstPixels 0 s.regs.pixels))
      (s.answered rs') := by
  have hb : s.regs.state ≠ .busy := by simp [hst]
  have hpixels : (dimWord s.regs.outWidth).toNat * (dimWord s.regs.outHeight).toNat = s.regs.pixels := by
    rw [dimWord_toNat (by decide), dimWord_toNat (by decide)]
    rfl
  obtain ⟨rs', htaking⟩ := Call.comes_taking hb (dimWord s.regs.outWidth) (dimWord s.regs.outHeight) 0 s.regs.pixels []
    (.rdata (dimWord s.regs.outHeight) :: .rdata (dimWord s.regs.outWidth) :: .rdata s.regs.statusWord :: rs)
  rw [List.nil_append, ← hpixels] at htaking
  have hpoll : Call.waiting.turn (s.answered rs) .host =
      some (.askingWidth, s.answered (.rdata s.regs.statusWord :: rs)) := by
    have hpolled : s.regs.polled = .askingWidth := by rw [Regs.polled, hst]
    rw [← hpolled]
    exact Call.turn_waiting (s.answered rs)
  refine ⟨rs', ?_⟩
  rw [← hpixels]
  exact .turn (State.answered_act_coreTurn hb _) hpoll
    (.turn (State.answered_act_coreTurn hb _) (Call.turn_host rfl (State.act_rd (reg := .outWidth) rfl))
      (.turn (State.answered_act_coreTurn hb _) (Call.turn_host rfl (State.act_rd (reg := .outHeight) rfl)) htaking))

end Return

/-- Settles O52, a clause at a time. -/
theorem hostReadsTheReturnOfACall : Obligations.HostReadsTheReturnOfACall := by
  refine ⟨fun v => ?word, fun s => ⟨_, _, Call.turn_waiting s, ?poll⟩, fun s n hst hn => ?output,
    fun c s hended => ?ended, fun s => ?reset⟩
  case word =>
    rw [Call.afterPoll_eq]
    exact ⟨fun h => by rw [h]; rfl, fun h => ⟨_, failureCode_toNat v, by rw [h]; rfl⟩, fun h => by rw [h]; rfl,
      fun h => by rw [h]; rfl⟩
  case poll =>
    unfold Regs.polled
    refine ⟨fun h => by rw [h], fun h => by rw [h], fun h => by rw [h], fun h => ⟨_, by rw [h], ?_⟩⟩
    cases s.regs.err <;> rfl
  case output =>
    have hpixels : n = s.regs.pixels := hn
    obtain ⟨rs, h⟩ := Call.comes_output hst s.replies
    rw [← hpixels] at h
    refine ⟨_, _, s.dstPixels 0 n, rs, ?_, dimWord_toNat (by decide) _, dimWord_toNat (by decide) _, ?_, fun a ha => ?_⟩
    · rw [← Call.turns_setInputs rfl [] (by simp)]
      exact h.turns_replicate
    · rw [State.dstPixels, List.length_map, List.length_range']
    · rw [s.dstPixels_getElem? ha, BitVec.ofNat_toNat, BitVec.setWidth_eq]
  case ended =>
    rcases hended with rfl | ⟨code, rfl⟩ | ⟨ow, oh, p, rfl⟩ <;> exact Call.turn_host_ended rfl s
  case reset =>
    rw [Call.turns_cons (d := .waiting) (t := (s.setInputs []).resetRegs) rfl, Call.turns_cons (Call.turn_waiting _)]
    exact ⟨_, rfl, rfl, rfl, rfl⟩

end Sys2Proof.Machine
end

section
/-! PROOFS. The statements of 43_host_operations.md about the host's call (R138), third part: the call as a whole, under
every schedule without a reset that gives both agents time. -/

namespace Sys2Proof.Machine

open Sys2Proof

/-! ### The run under a schedule (R109) -/

/-- What is to come from outside is in no clause of the invariant. -/
theorem State.Inv.setInputs {s : State} (h : s.Inv) (k : List HostAction) : (s.setInputs k).Inv :=
  (State.inv_iff _).2 ((State.inv_iff s).1 h)

/-- Replies to the host are in no clause of the invariant. -/
theorem State.Inv.answered {s : State} (h : s.Inv) (rs : List Reply) : (s.answered rs).Inv :=
  (State.inv_iff _).2 ((State.inv_iff s).1 h)

/-- What is to come from outside belongs to no dimension and no memory. -/
theorem State.setInputs_runFrame (s : State) (k : List HostAction) : s.RunFrame (s.setInputs k) [] :=
  ⟨rfl, rfl, rfl, rfl, rfl, fun _ _ => rfl, fun _ _ _ => rfl⟩

/-- Replies belong to no dimension and no memory. -/
theorem State.answered_runFrame (s : State) (rs : List Reply) : s.RunFrame (s.answered rs) [] :=
  ⟨rfl, rfl, rfl, rfl, rfl, fun _ _ => rfl, fun _ _ _ => rfl⟩

/-- A run that has begun in `s` is at its end in `t`, with the whole output in DST. -/
structure State.Finishes (s t : State) : Prop where
  inv : t.Inv
  done : t.regs.state = .done
  inputs : t.inputs = []
  result : t.HoldsResult
  frame : s.RunFrame t []

/-- What changes nothing in a run before its end. -/
theorem State.Finishes.of_frame {s u t : State} (h : u.Finishes t) (hframe : s.RunFrame u []) : s.Finishes t :=
  ⟨h.inv, h.done, h.inputs, h.result, hframe.trans h.frame⟩

/-- The core's turn in a run: the run goes on with its data and one step fewer, or is at its end (R104, R110). -/
theorem State.act_coreTurn_busy {s : State} (hinv : s.Inv) (hb : s.regs.state = .busy) (hdata : s.DataOk) :
    ∃ t, s.act .coreTurn = some t ∧ t.regs.stepsLeft + 1 = s.regs.stepsLeft ∧ t.Inv ∧ s.RunFrame t [] ∧
      ((t.regs.state = .busy ∧ t.DataOk) ∨ s.Finishes t) := by
  have hinv' : (s.setInputs [.coreTurn]).Inv := hinv.setInputs _
  have hdata' : (s.setInputs [.coreTurn]).DataOk := ⟨hdata.acc, hdata.out⟩
  have hduties : (s.setInputs [.coreTurn]).DutiesKept := by
    intro a k hak
    cases hak
    trivial
  obtain ⟨t, hstep, hi, hleft, hframe, hst⟩ :=
    step_core_run (u := s.setInputs []) hinv' hb (.inr ⟨[], rfl, rfl⟩)
  have htinv : t.Inv := everyStepKeepsTheInvariant _ t hinv' hstep
  have hframe' : s.RunFrame t [] := (s.setInputs_runFrame _).trans hframe
  refine ⟨t, State.act_eq_some.2 hstep, hleft, htinv, hframe', ?_⟩
  rcases hst with hbusy | hdone
  · exact .inl ⟨hbusy, everyStepKeepsTheDataOfARun _ t hinv' (fun _ => ⟨hdata', hduties⟩) hstep hbusy⟩
  · obtain ⟨hresult, _⟩ := lastStepLeavesTheWholeOutput _ t hinv' hb hdata' hduties hstep hdone
    exact .inr ⟨htinv, hdone, hi, hresult, hframe'⟩

/-- A schedule without a reset that has the core's steps of a run begins with a part that ends the run, by induction on
the turns: the host waits, whatever number of polls it makes (R109, R138). -/
theorem Call.exists_run_split {s : State} (hinv : s.Inv) (hb : s.regs.state = .busy) (hdata : s.DataOk)
    {l : List Agent} (hreset : .reset ∉ l) (hn : s.regs.stepsLeft ≤ l.count .core) :
    ∃ p k t, l = p ++ k ∧ Call.waiting.turns s p = some (.waiting, t) ∧ s.Finishes t := by
  induction l generalizing s with
  | nil =>
    have hzero : s.regs.stepsLeft = 0 := Nat.le_zero.1 hn
    exact absurd hb (((State.inv_iff s).1 hinv).1.stepsLeft_eq_zero_iff.1 hzero)
  | cons a l ih =>
    have hl : .reset ∉ l := fun hm => hreset (List.mem_cons_of_mem _ hm)
    cases a with
    | reset => exact absurd List.mem_cons_self hreset
    | host =>
      have hpoll := Call.turn_waiting s
      rw [Regs.polled, hb] at hpoll
      rw [List.count_cons_of_ne (by decide)] at hn
      obtain ⟨p, k, t, rfl, hturns, hend⟩ := ih (hinv.answered _) hb ⟨hdata.acc, hdata.out⟩ hl hn
      exact ⟨.host :: p, k, t, rfl, (Call.turns_cons hpoll p).trans hturns, hend.of_frame (s.answered_runFrame _)⟩
    | core =>
      obtain ⟨u, hact, hleft, huinv, hframe, hst⟩ := State.act_coreTurn_busy hinv hb hdata
      have hturn : Call.waiting.turn s .core = some (.waiting, u) := by rw [Call.turn, hact]; rfl
      rw [List.count_cons_self] at hn
      rcases hst with ⟨hub, hudata⟩ | hend
      · obtain ⟨p, k, t, rfl, hturns, hend⟩ := ih huinv hub hudata hl (by omega)
        exact ⟨.core :: p, k, t, rfl, (Call.turns_cons hturn p).trans hturns, hend.of_frame hframe⟩
      · exact ⟨[.core], l, u, rfl, Call.turns_cons hturn [], hend⟩

/-- The same from the START of any dimensions: a run of no output pixel is at its end at once (R79, R141). -/
theorem Call.exists_split_from_start {s : State} (hinv : s.beginRun.Inv) (hi : s.inputs = []) {l : List Agent}
    (hreset : .reset ∉ l) (hn : 5 * ((s.regs.width.toNat / 2) * (s.regs.height.toNat / 2)) ≤ l.count .core) :
    ∃ p k t, l = p ++ k ∧ Call.waiting.turns s.beginRun p = some (.waiting, t) ∧ s.beginRun.Finishes t := by
  rcases s.beginRun_state_cases with ⟨_, hst⟩ | ⟨hsmall, hst⟩
  · refine Call.exists_run_split hinv hst s.beginRun_dataOk hreset ?_
    rwa [s.beginRun_stepsLeft, Nat.mul_assoc]
  · refine ⟨[], l, s.beginRun, rfl, rfl, hinv, hst, hi, fun x y hx hy => ?_, State.RunFrame.refl _⟩
    have hx' : x < s.regs.width.toNat / 2 := hx.trans_eq (half_toNat s.regs.width)
    have hy' : y < s.regs.height.toNat / 2 := hy.trans_eq (half_toNat s.regs.height)
    omega

/-! ### What the call returns (R138) -/

/-- The invariant holds at the beginning of a run whenever it holds before (R127). -/
theorem State.Inv.beginRun {s : State} (h : s.Inv) : s.beginRun.Inv :=
  (State.inv_iff _).2 ⟨s.beginRun_sound, h.src, h.dst⟩

/-- The invariant holds before the START of a call. -/
theorem State.Inv.handedOver {s : State} (hinv : s.Inv) (hb : s.regs.state ≠ .busy) {pixels : List SrcPixel}
    (hlen : pixels.length ≤ 2 ^ 32) (w h : HostWord) (setFormat : Bool) :
    (s.handedOver pixels w h setFormat).Inv := by
  obtain ⟨hr, hsrc, hdst⟩ := (State.inv_iff s).1 hinv
  exact (State.inv_iff _).2 ⟨hr.config hb _ _ _ _, Memory.wf_provided hsrc (by omega), hdst⟩

/-- A source buffer whose pixels stand in SRC from index 0 on is the buffer of these pixels (R31). -/
theorem State.sourceBuffer_of_pixels {t : State} {pixels : List SrcPixel} {w h : Nat}
    (hw : t.regs.width.toNat = w) (hh : t.regs.height.toNat = h) (hlen : pixels.length = w * h)
    (hmax : pixels.length ≤ 2 ^ 32) (hread : ∀ i p, pixels[i]? = some p → t.src.read i = some p) :
    (PixelBuffer.ofPixels pixels w h).AgreesInside t.sourceBuffer := by
  refine ⟨hw, hh, fun col row c hcol hrow => ?_⟩
  have hin : row * w + col < pixels.length := (rasterIndex_lt hrow hcol).trans_eq ((Nat.mul_comm h w).trans hlen.symm)
  have hindex : (BitVec.ofNat 32 (row * w + col)).toNat = row * w + col := by
    rw [BitVec.toNat_ofNat, Nat.mod_eq_of_lt (by omega)]
  have hp : pixels[row * w + col]? = some pixels[row * w + col] := List.getElem?_eq_getElem hin
  show chan16 (t.srcRead (BitVec.ofNat 32 (row * t.regs.width.toNat + col))) c =
    chan16 (pixels.getD (row * w + col) 0) c
  rw [hw, State.srcRead, hindex, hread _ _ hp, List.getD_eq_getElem?_getD, hp]
  rfl

/-- Fewer output pixels than indices (R30). -/
theorem Regs.pixels_lt (r : Regs) : r.pixels < 2 ^ 32 :=
  calc r.pixels ≤ (2 ^ 16 - 1) * (2 ^ 16 - 1) :=
        Nat.mul_le_mul (Nat.le_pred_of_lt r.outWidth.isLt) (Nat.le_pred_of_lt r.outHeight.isLt)
    _ < 2 ^ 32 := by decide

/-- The output that the Sink takes from a DST that holds the result (R32, R138). -/
theorem State.HoldsResult.dstPixels {t : State} (h : t.HoldsResult) {x y : Nat} (hx : x < t.regs.outWidth.toNat)
    (hy : y < t.regs.outHeight.toNat) {o : DstPixel}
    (ho : (t.dstPixels 0 t.regs.pixels)[y * t.regs.outWidth.toNat + x]? = some o) (c : Fin 3) :
    chan8 o c = (transform t.sourceBuffer).sample x y c := by
  obtain ⟨v, hread, hsample⟩ := h x y hx hy
  have hin : y * t.regs.outWidth.toNat + x < t.regs.pixels := (rasterIndex_lt hy hx).trans_eq (Nat.mul_comm _ _)
  have hindex : (BitVec.ofNat 32 (y * t.regs.outWidth.toNat + x)).toNat = y * t.regs.outWidth.toNat + x := by
    rw [BitVec.toNat_ofNat, Nat.mod_eq_of_lt (hin.trans t.regs.pixels_lt)]
  rw [t.dstPixels_getElem? hin, State.dstRead, hindex, hread] at ho
  rw [← Option.some.inj ho]
  exact hsample c

/-- With nothing to come from outside a state is the one after the replies it has. -/
theorem State.answered_replies {s : State} (hi : s.inputs = []) : s.answered s.replies = s := by
  unfold State.answered
  rw [← hi]

/-- A call always has a first action. -/
theorem Call.begin_action (pixels : List SrcPixel) (w h : HostWord) (setFormat : Bool) :
    ∃ a, (Call.begin pixels w h setFormat).action = some a := by
  cases pixels <;> exact ⟨_, rfl⟩

/-- The first part of a call, in as many turns of the host as it has actions. -/
theorem Call.comes_begin {s : State} (hb : s.regs.state ≠ .busy) {pixels : List SrcPixel}
    (hlen : pixels.length ≤ 2 ^ 32) (w h : HostWord) (setFormat : Bool) :
    (Call.begin pixels w h setFormat).Comes (s.setInputs []) (pixels.length + if setFormat then 4 else 3) .waiting
      ((s.handedOver pixels w h setFormat).start.setInputs []) := by
  rw [← callActions_length pixels w h setFormat]
  exact (State.leads_callActions hb hlen).comes

/-- From START under a schedule: the core's turns up to the end of `during` end the run, and the host's turns left take
the output (R109, R138). -/
theorem Call.turns_from_start {s : State} (hinv : s.beginRun.Inv) (hi : s.inputs = []) {during after : List Agent}
    (hreset : .reset ∉ during ++ after)
    (hduring : 5 * ((s.regs.width.toNat / 2) * (s.regs.height.toNat / 2)) ≤ during.count .core)
    (hafter : (s.regs.width.toNat / 2) * (s.regs.height.toNat / 2) + 3 ≤ after.count .host) :
    ∃ t rs, s.beginRun.Finishes t ∧ Call.waiting.turns s.beginRun (during ++ after) =
      some (.output (dimWord t.regs.outWidth) (dimWord t.regs.outHeight) (t.dstPixels 0 t.regs.pixels),
        t.answered rs) := by
  obtain ⟨p, k, t, rfl, hrun, hend⟩ :=
    Call.exists_split_from_start hinv hi (fun hm => hreset (List.mem_append_left _ hm)) hduring
  have hpixels : t.regs.pixels = (s.regs.width.toNat / 2) * (s.regs.height.toNat / 2) := by
    rw [← s.beginRun_pixels, Regs.pixels, hend.frame.outWidth, hend.frame.outHeight]
    rfl
  have hleft : t.regs.pixels + 3 ≤ (k ++ after).count .host := by
    rw [hpixels, List.count_append]
    omega
  obtain ⟨rs, houtput⟩ := Call.comes_output hend.done t.replies
  rw [State.answered_replies hend.inputs] at houtput
  rw [List.append_assoc] at hreset ⊢
  exact ⟨t, rs, hend, (Call.turns_append hrun _).trans (houtput.turns_to_end rfl
    (State.answered_act_coreTurn (by simp [hend.done]) rs) (fun hm => hreset (List.mem_append_right p hm)) hleft)⟩

/-- The whole call under a schedule (R138): the host's turns in `before` begin a run, whatever more turns they are. -/
theorem Call.turns_call {s : State} {pixels : List SrcPixel} {w h : HostWord} {setFormat : Bool}
    {before during after : List Agent} (hb : s.regs.state ≠ .busy) (hmax : pixels.length ≤ 2 ^ 32)
    {u : State} (hu : (s.handedOver pixels w h setFormat).setInputs [] = u) (hinv : u.Inv)
    (hformat : u.regs.channels = 3 ∧ u.regs.depth = 16) (hreset : .reset ∉ before ++ (during ++ after))
    (hbefore : (pixels.length + if setFormat then 4 else 3) ≤ before.count .host)
    (hduring : 5 * ((u.regs.width.toNat / 2) * (u.regs.height.toNat / 2)) ≤ during.count .core)
    (hafter : (u.regs.width.toNat / 2) * (u.regs.height.toNat / 2) + 3 ≤ after.count .host) :
    ∃ t rs, u.beginRun.Finishes t ∧ (Call.begin pixels w h setFormat).turns s (before ++ (during ++ after)) =
      some (.output (dimWord t.regs.outWidth) (dimWord t.regs.outHeight) (t.dstPixels 0 t.regs.pixels),
        t.answered rs) := by
  subst hu
  obtain ⟨a, ha⟩ := Call.begin_action pixels w h setFormat
  have hgive := Call.comes_begin hb hmax w h setFormat
  rw [State.start_accepted (s := s.handedOver pixels w h setFormat) hb hformat.1 hformat.2] at hgive
  obtain ⟨p, k, rfl, hbegin⟩ := hgive.exists_split (fun hm => hreset (List.mem_append_left _ hm)) hbefore
  have hne : after ≠ [] := by
    rintro rfl
    simp at hafter
  rw [List.append_assoc] at hreset ⊢
  obtain ⟨t, rs, hend, hturns⟩ := Call.turns_from_start (during := k ++ during) (after := after) hinv.beginRun rfl
    (fun hm => hreset (List.mem_append_right p (List.append_assoc k _ _ ▸ hm)))
    (hduring.trans (by rw [List.count_append]; omega)) hafter
  rw [List.append_assoc] at hturns
  exact ⟨t, rs, hend, (Call.turns_setInputs ha [] (by simp [hne])).symm.trans
    ((Call.turns_append hbegin _).trans hturns)⟩

/-- Settles O53: the run that the call begins is at its end, with the buffer of the pixels in SRC and its transform in
DST, and the Sink takes the latter. -/
theorem hostCallReturnsTheTransform : Obligations.HostCallReturnsTheTransform := by
  intro s pixels w h setFormat before during after hinv hb hw hh hlen hf hreset hbefore hduring hafter
  have hmax := pixels_length_le hw hh hlen
  generalize hu : (s.handedOver pixels w h setFormat).setInputs [] = u
  have hwidth : u.regs.width.toNat = w.toNat := hu ▸ dimField_toNat_of_lt hw
  have hheight : u.regs.height.toNat = h.toNat := hu ▸ dimField_toNat_of_lt hh
  have hsrcu : u.src = s.src.provided 0 pixels := hu ▸ rfl
  have hdstu : u.dst = s.dst := hu ▸ rfl
  have hformat : u.regs.channels = 3 ∧ u.regs.depth = 16 :=
    hu ▸ State.handedOver_format (pixels := pixels) (w := w) (h := h) hf
  have huinv : u.Inv := hu ▸ (hinv.handedOver hb hmax w h setFormat).setInputs []
  obtain ⟨t, rs, hend, hturns⟩ := Call.turns_call hb hmax hu huinv hformat hreset hbefore
    (by rwa [hwidth, hheight]) (by rwa [hwidth, hheight])
  have how : t.regs.outWidth.toNat = w.toNat / 2 := by
    rw [hend.frame.outWidth, ← hwidth]
    exact half_toNat _
  have hoh : t.regs.outHeight.toNat = h.toNat / 2 := by
    rw [hend.frame.outHeight, ← hheight]
    exact half_toNat _
  have hsrc (i : Nat) : t.src.read i = (s.src.provided 0 pixels).read i := hsrcu ▸ hend.frame.src i (by simp)
  have hbuf : (PixelBuffer.ofPixels pixels w.toNat h.toNat).AgreesInside t.sourceBuffer := by
    refine State.sourceBuffer_of_pixels ((congrArg BitVec.toNat hend.frame.width).trans hwidth)
      ((congrArg BitVec.toNat hend.frame.height).trans hheight) hlen hmax fun i p hp => ?_
    rw [hsrc, ← Nat.zero_add i, Memory.read_provided _ hp]
  refine ⟨_, _, _, _, hturns, ?ow, ?oh, ?length, fun x y o hx hy ho c => ?sample, hend.done, ?err, fun i hi => ?src,
    fun i hi => ?dst⟩
  case ow => rw [dimWord_toNat (by decide), how]
  case oh => rw [dimWord_toNat (by decide), hoh]
  case length => rw [State.dstPixels, List.length_map, List.length_range', Regs.pixels, how, hoh]
  case sample =>
    rw [← how] at ho
    exact (hend.result.dstPixels (hx.trans_eq how.symm) (hy.trans_eq hoh.symm) ho c).trans (hbuf.transform hx hy c)
  case err => exact ((State.inv_iff t).1 hend.inv).1.err_of_ne_error (by simp [hend.done])
  case src => exact (hsrc i).trans (Memory.read_provided_other _ (.inr (by omega)))
  case dst =>
    refine (hend.frame.dst i ?_ (by simp)).trans (congrArg (Memory.read · i) hdstu)
    rwa [State.beginRun_pixels, hwidth, hheight]

/-- Settles O54: START refuses the format, and the first poll tells the code. -/
theorem hostCallReportsARefusedFormat : Obligations.HostCallReportsARefusedFormat := by
  intro s pixels w h turns _ hb hw hh hlen hf hreset hn
  obtain ⟨a, ha⟩ := Call.begin_action pixels w h false
  have hgive := Call.comes_begin hb (pixels_length_le hw hh hlen) w h false
  rw [State.start_refused (s := s.handedOver pixels w h false) hb hf] at hgive
  have hpoll := hgive.trans (.turn (State.act_coreTurn_rest RunState.noConfusion) (Call.turn_waiting _) (.refl _ _))
  have hne : turns ≠ [] := by
    rintro rfl
    simp at hn
  have hcode : (if s.regs.channels = 3 then ErrCode.unsupportedBitDepth else .channelCountMismatch).code.toNat =
      if s.regs.channels = 3 then 3 else 2 := by split <;> rfl
  exact ⟨_, _, (Call.turns_setInputs ha [] hne).symm.trans
    (hpoll.turns_to_end rfl (State.act_coreTurn_rest RunState.noConfusion) hreset hn), hcode, rfl, rfl, rfl, rfl⟩

end Sys2Proof.Machine
end

section
/-! PROOFS. The statements of 60_exceptions.md: which error START raises (R142, R143, R146), that nothing else raises one
(R140), that small dimensions are no error (R141), and that no step stops under the invariant. -/

namespace Sys2Proof.Machine

open Sys2Proof

/-! ### What raises an error (R140) -/

/-- A run that begins is not in ERROR (R127). -/
theorem State.beginRun_state_ne_error (s : State) : s.beginRun.regs.state ≠ .error := by
  rcases s.beginRun_state_cases with ⟨_, hst⟩ | ⟨_, hst⟩ <;> simp [hst]

/-- EMIT leaves ERR and takes no state to ERROR: the STATE it leaves is the one before, or DONE (R104). -/
theorem State.emitStep_raises_nothing {accw dimw aw : Nat} (s : State accw dimw aw) :
    s.emitStep.regs.err = s.regs.err ∧ (s.emitStep.regs.state = .error → s.regs.state = .error) := by
  rcases s.emitStep_regs_cases with ⟨_, h⟩ | ⟨_, _, h⟩ | ⟨_, _, h⟩ <;> rw [h]
  · exact ⟨rfl, id⟩
  · exact ⟨rfl, id⟩
  · exact ⟨rfl, fun herror => absurd herror RunState.noConfusion⟩

/-- Settles O27, by what an operation can do: a reply, a configuration write and ACC leave STATE and ERR, START while
BUSY leaves everything, and EMIT can only end a run. -/
theorem onlyStartRaisesAnError : Obligations.OnlyStartRaisesAnError := by
  intro i s t h hi
  rcases exec_cases h with ⟨v, rfl⟩ | ⟨wd, ht, ch, dp, rfl⟩ | ⟨v, hv, rfl⟩ | rfl | ⟨dx, dy, _, rfl⟩ | ⟨_, rfl⟩
  · exact ⟨rfl, id⟩
  · rcases s.configWrite_cases { s.regs with width := wd, height := ht, channels := ch, depth := dp } with
      ⟨_, he⟩ | ⟨_, he⟩ <;> rw [he] <;> exact ⟨rfl, id⟩
  · rw [State.start_busy (hi.resolve_left fun hne => hne v hv)]
    exact ⟨rfl, id⟩
  · exact ⟨rfl, id⟩
  · exact ⟨rfl, id⟩
  · exact s.emitStep_raises_nothing

/-! ### Which error START raises (R142, R143, R146) -/

/-- Settles O26: each of the three branches of START outside a run makes every equivalence true on both sides or false
on both. -/
theorem startRaisesExactlyTheDeclaredFormatErrors : Obligations.StartRaisesExactlyTheDeclaredFormatErrors := by
  intro v s _ hb
  have hchannels : s.regs.channels.toNat = 3 ↔ s.regs.channels = 3 := BitVec.toNat_inj (y := 3)
  have hdepth : s.regs.depth.toNat = 16 ↔ s.regs.depth = 16 := BitVec.toNat_inj (y := 16)
  refine ⟨s.start, rfl, ?_⟩
  rw [Ne, Ne, hchannels, hdepth]
  rcases s.start_cases with ⟨hb', _⟩ | ⟨_, hc, he⟩ | ⟨_, hc, hd, he⟩ | ⟨_, hc, hd, he⟩
  case inl => exact absurd hb' hb
  all_goals rw [he]
  case inr.inl =>
    exact ⟨iff_of_true rfl hc, iff_of_false ErrCode.noConfusion fun h => hc h.1, iff_of_true rfl (.inl hc),
      rfl, rfl, rfl, rfl⟩
  case inr.inr.inl =>
    exact ⟨iff_of_false ErrCode.noConfusion fun h => h hc, iff_of_true rfl ⟨hc, hd⟩, iff_of_true rfl (.inr hd),
      rfl, rfl, rfl, rfl⟩
  case inr.inr.inr =>
    exact ⟨iff_of_false ErrCode.noConfusion fun h => h hc, iff_of_false ErrCode.noConfusion fun h => h.2 hd,
      iff_of_false s.beginRun_state_ne_error fun h => h.elim (absurd hc) (absurd hd), rfl, rfl, rfl, rfl⟩

/-! ### Small dimensions (R141) -/

/-- A START writes code 1 in no state: it leaves ERR, or writes 0, 2 or 3 (R127, R137). -/
theorem State.start_err_invalidDimensions {accw dimw aw : Nat} {s : State accw dimw aw}
    (h : s.start.regs.err = .invalidDimensions) : s.regs.err = .invalidDimensions := by
  rcases s.start_cases with ⟨_, he⟩ | ⟨_, _, he⟩ | ⟨_, _, _, he⟩ | ⟨_, _, _, he⟩ <;> rw [he] at h
  · exact h
  all_goals exact absurd h ErrCode.noConfusion

/-- Settles O28: a run over an empty output is DONE at once, and what no START writes, no operation writes (O27). -/
theorem smallDimensionsEndInDone : Obligations.SmallDimensionsEndInDone := by
  refine ⟨fun v s _ hb hc hd hsmall => ?done, fun i s t h ht => ?code⟩
  case done =>
    have hstart : exec (.wrCtrlStart v) s = .next s.beginRun := by
      rw [exec, execWrCtrlStart, State.start_accepted hb hc hd]
    have hdone : s.beginRun.regs.state = .done := by
      rcases s.beginRun_state_cases with ⟨⟨hw, hh⟩, _⟩ | ⟨_, hst⟩
      · omega
      · exact hst
    exact ⟨s.beginRun, hstart, hdone, rfl, half_toNat s.regs.width, half_toNat s.regs.height,
      hsmall.imp (half_eq_zero _).2 (half_eq_zero _).2, rfl, rfl⟩
  case code =>
    by_cases hi : ∃ v, i = .wrCtrlStart v
    · obtain ⟨v, rfl⟩ := hi
      obtain rfl : s.start = t := Host.Outcome.next.inj h
      exact State.start_err_invalidDimensions ht
    · obtain ⟨herr, _⟩ := onlyStartRaisesAnError i s t h (.inl (not_exists.1 hi))
      exact herr ▸ ht

/-! ### No step stops (R140, R152, R164) -/

/-- Under the invariant the core's turn answers a next state: the phase of a run is at most 4, so it selects no reserved
micro-operation (R59, R108). -/
theorem step_core_next {s u : State} (hinv : s.Inv) (h : s.CoreHasTurn u) : ∃ t, step s = .next t := by
  by_cases hb : s.regs.state = .busy
  · rcases step_core h hb (hinv.run hb).k with ⟨_, hstep⟩ | ⟨_, hstep⟩ <;> exact ⟨_, hstep⟩
  · exact ⟨u, step_of_coreHasTurn_rest h hb⟩

/-- Settles O44, by the action that comes next. -/
theorem noStepStopsUnderTheInvariant : Obligations.NoStepStopsUnderTheInvariant := by
  intro s hinv
  cases hi : s.inputs with
  | nil => exact step_core_next hinv (.inl ⟨hi, rfl⟩)
  | cons a l =>
    cases a with
    | txn w => exact step_txn hi ▸ exec_txn_next w (s.setInputs l)
    | writeSrc a p => exact ⟨_, step_writeSrc hi⟩
    | readSrc a => exact ⟨_, step_readSrc hi⟩
    | writeDst a v => exact ⟨_, step_writeDst hi⟩
    | readDst a => exact ⟨_, step_readDst hi⟩
    | reset => exact ⟨_, step_reset hi⟩
    | coreTurn => exact step_core_next hinv (.inr ⟨l, hi, rfl⟩)

end Sys2Proof.Machine
end

section
/-! PROOFS. The statements of 70_reset_and_hazards.md: the reset input (R160), a START that forgets the earlier run
(R172), and the end of every run (R176, with the bound of R110). -/

namespace Sys2Proof.Machine

open Sys2Proof

/-! ### The reset input (R160) -/

/-- Settles O13: the step of an active reset input, with the reset value of every register written out. -/
theorem resetInputSetsEveryRegister : Obligations.ResetInputSetsEveryRegister :=
  fun _ _ h => step_reset h

/-! ### START and the earlier run (R172) -/

/-- START outside a run decides by the configuration what it leaves in every register (R81, R127). -/
theorem State.start_regs_eq_of_config {accw dimw aw : Nat} {s u : State accw dimw aw} (hs : s.regs.state ≠ .busy)
    (hu : u.regs.state ≠ .busy) (hw : s.regs.width = u.regs.width) (hh : s.regs.height = u.regs.height)
    (hc : s.regs.channels = u.regs.channels) (hd : s.regs.depth = u.regs.depth) : s.start.regs = u.start.regs := by
  by_cases hf : u.regs.channels = 3 ∧ u.regs.depth = 16
  · obtain ⟨hc3, hd16⟩ := hf
    rw [State.start_accepted hs (hc.trans hc3) (hd.trans hd16), State.start_accepted hu hc3 hd16,
      State.beginRun_regs, State.beginRun_regs, hw, hh, hc, hd]
  · have hf' : ¬ (s.regs.channels = 3 ∧ s.regs.depth = 16) := by rwa [hc, hd]
    rw [State.start_refused hs hf', State.start_refused hu hf, State.raise_regs, State.raise_regs, hw, hh, hc, hd]

/-- Settles O29: the registers after each START are the ones that its configuration decides. -/
theorem startForgetsTheEarlierRun : Obligations.StartForgetsTheEarlierRun := by
  intro v s u t w hs hu hw hh hc hd hsStart huStart
  obtain rfl : s.start = t := Host.Outcome.next.inj hsStart
  obtain rfl : u.start = w := Host.Outcome.next.inj huStart
  exact State.start_regs_eq_of_config hs hu hw hh hc hd

/-! ### Every run ends (R110, R176) -/

/-- A turn of the core uses at most one of the actions to come. -/
theorem State.CoreHasTurn.inputs_suffix {s u : State} (h : s.CoreHasTurn u) : u.inputs <:+ s.inputs := by
  rcases h with ⟨_, rfl⟩ | ⟨l, hi, rfl⟩
  · exact List.suffix_refl _
  · exact hi ▸ List.suffix_cons _ _

/-- A step from `s` to `t` brings the end of a run nearer: no action to come is new, fewer actions and core steps
are left together, and the run goes on or is DONE. -/
structure State.RunProgress (s t : State) : Prop where
  inputs : t.inputs <:+ s.inputs
  left : t.inputs.length + t.regs.stepsLeft < s.inputs.length + s.regs.stepsLeft
  state : t.regs.state = .busy ∨ t.regs.state = .done

/-- The core's turn in a run brings its end nearer, by the step that it takes from the steps left (R110). -/
theorem step_core_progress {s u : State} (hinv : s.Inv) (hb : s.regs.state = .busy) (h : s.CoreHasTurn u) :
    ∃ t, step s = .next t ∧ s.RunProgress t := by
  obtain ⟨t, hstep, hi, hleft, _, hst⟩ := step_core_run hinv hb h
  have hsuffix : t.inputs <:+ s.inputs := hi ▸ h.inputs_suffix
  have hlength := hsuffix.length_le
  exact ⟨t, hstep, hsuffix, by omega, hst⟩

/-- Every step of a run but a reset brings its end nearer: the core's turn takes one of the steps left, and any other
step uses one of the actions to come. -/
theorem step_run_progress {s : State} (hinv : s.Inv) (hb : s.regs.state = .busy) (hreset : .reset ∉ s.inputs) :
    ∃ t, step s = .next t ∧ s.RunProgress t := by
  cases hi : s.inputs with
  | nil => exact step_core_progress hinv hb (.inl ⟨hi, rfl⟩)
  | cons a l =>
    by_cases ha : a = .coreTurn
    · exact step_core_progress hinv hb (.inr ⟨l, ha ▸ hi, rfl⟩)
    · have hne : a ≠ .reset := fun h => hreset (by rw [hi, h]; exact List.mem_cons_self)
      obtain ⟨rs, hstep⟩ := step_host_busy hb hi ha hne
      refine ⟨_, hstep, hi ▸ List.suffix_cons a l, ?_, .inl hb⟩
      rw [hi]
      exact Nat.add_lt_add_right (Nat.lt_succ_self l.length) _

/-- A run with at most `n` outside actions to come and core steps left is DONE within `n` steps, by induction on `n`. -/
theorem run_reaches_done (n : Nat) {s : State} (hinv : s.Inv) (hb : s.regs.state = .busy)
    (hreset : .reset ∉ s.inputs) (hn : s.inputs.length + s.regs.stepsLeft ≤ n) :
    ∃ m, m ≤ n ∧ ∃ t : State, Host.Core.run Sys2Proof.core m s = .next t ∧ t.Inv ∧ t.regs.state = .done := by
  induction n generalizing s with
  | zero =>
    obtain ⟨_, _, _, hlt, _⟩ := step_run_progress hinv hb hreset
    omega
  | succ n ih =>
    obtain ⟨t, hstep, hsuffix, hlt, hst⟩ := step_run_progress hinv hb hreset
    have htinv : t.Inv := everyStepKeepsTheInvariant s t hinv hstep
    rcases hst with hbusy | hdone
    · obtain ⟨m, hm, v, hrun, hend⟩ := ih htinv hbusy (fun hmem => hreset (hsuffix.subset hmem)) (by omega)
      exact ⟨m + 1, Nat.succ_le_succ hm, v, (run_succ hstep m).trans hrun, hend⟩
    · exact ⟨1, Nat.le_add_left 1 n, t, run_succ hstep 0, htinv, hdone⟩

/-- The most core steps that a run can have left: five for each pixel of the largest output buffer (R17, R18, R110). -/
theorem Regs.Sound.stepsLeft_le {r : Regs} (h : r.Sound) (hb : r.state = .busy) : r.stepsLeft ≤ 5368381445 := by
  obtain ⟨how, hoh⟩ := h.halves
  calc r.stepsLeft = 5 * (r.pixels - r.pixelsDone) - r.k.toNat := Regs.stepsLeft_of_busy hb
    _ ≤ 5 * r.pixels := by omega
    _ ≤ 5 * (32767 * 32767) := Nat.mul_le_mul_left 5 (Nat.mul_le_mul how hoh)

/-- Settles O48: the state that the run reaches meets the invariant, so in DONE its ERR is 0 (R12). -/
theorem everyRunReachesDone : Obligations.EveryRunReachesDone := by
  intro s hinv hb hreset
  obtain ⟨n, hn, t, hrun, htinv, hdone⟩ := run_reaches_done _ hinv hb hreset le_rfl
  have herr : t.regs.err = .none := ((State.inv_iff t).1 htinv).1.err_of_ne_error (by simp [hdone])
  exact ⟨((State.inv_iff s).1 hinv).1.stepsLeft_le hb, n, hn, t, hrun, hdone, herr⟩

end Sys2Proof.Machine
end
